-- ==== Sys2Proof/Word.lean ====
section
/-! DEFINITION. The word types of the LS-8 core block and the two extension primitives of
spec/00_scope.md R8 and R9. Values are unsigned; bit 0 is the least significant. -/

namespace Sys2Proof

/-- A register, memory cell, opcode or operand: 8 bits (10_state R21, 20_memory R50). -/
abbrev Byte := BitVec 8

/-- The program counter, FAULT_PC and FAULT_INFO: 16 bits (10_state R25, R28). -/
abbrev Word := BitVec 16

/-- `zext_n(v)` of 00_scope R9. -/
abbrev zext (n : Nat) {m : Nat} (v : BitVec m) : BitVec n := v.setWidth n

/-- `sext_n(v)` of 00_scope R9; no rule of the block uses it. -/
abbrev sext (n : Nat) {m : Nat} (v : BitVec m) : BitVec n := v.signExtend n

end Sys2Proof
end

