-- ==== Sys2Proof/Syntax.lean ====
section
/-! DEFINITION. The six instructions of spec/30_encoding.md R86, and the names the decoder unit's
control word uses (30_encoding R87). Operands are the raw operand bytes of R84: the check that a
register byte names a register is each instruction's own (40_fetch_decode R105). -/

namespace Sys2Proof

/-- One constructor per row of spec/opcode_table.json. -/
inductive Instr where
  /-- HALT, format N (41_control R121). -/
  | halt
  /-- LOAD_IMMEDIATE, format RI: register byte, immediate (42_register_io R131). -/
  | ldi (r v : Byte)
  /-- PRINT_REG, format R: register byte (42_register_io R134). -/
  | prn (r : Byte)
  /-- MULTIPLY, format RR: destination and first source, second source (43_alu R151). -/
  | mul (a b : Byte)
  /-- PUSH, format R: register byte (44_stack R165). -/
  | push (r : Byte)
  /-- POP, format R: register byte (44_stack R168). -/
  | pop (r : Byte)
  deriving DecidableEq, Repr

/-- The `kind` column of the control word (30_encoding R87). -/
inductive Kind where
  | HALT | LDI | PRN | MUL | PUSH | POP
  deriving DecidableEq, Repr

/-- The `mem` column of the control word (30_encoding R87). -/
inductive MemAccess where
  | none
  /-- PUSH: write at `SP-1`. -/
  | writeAtSpDec
  /-- POP: read at `SP`. -/
  | readAtSp
  deriving DecidableEq, Repr

/-- What the dispatch multiplexer puts on the register write port (40_fetch_decode R107). -/
inductive WbSource where
  | immediate | aluResult | memData | spDec | spInc
  deriving DecidableEq, Repr

/-- Which register the write port addresses: the register of operand byte 1, or register 7. -/
inductive WbDest where
  | operand1 | sp
  deriving DecidableEq, Repr

/-- The control word the decoder makes of `IR` (30_encoding R87). `regs` lists the operand byte
positions checked as register operands, `writeBack` the register writes in order. -/
structure ControlWord where
  kind      : Kind
  len       : Nat
  regs      : List Nat
  aluOp     : Option (BitVec 2)
  mem       : MemAccess
  writeBack : List (WbSource × WbDest)
  toOutput  : Bool
  deriving DecidableEq, Repr

end Sys2Proof
end

