-- ==== Sys2Proof/WellFormed.lean ====
section
/-! DEFINITION. Which instruction terms are well formed: every register operand byte names one of
the registers 0 to 7 (spec/30_encoding.md R82). Immediates are unrestricted (R83). -/

namespace Sys2Proof

/-- A byte that is a valid register index. -/
def validRegByte (b : Byte) : Bool := decide (b.toNat < 8)

/-- The register operand bytes of an instruction are all valid. -/
def Instr.wellFormed : Instr → Bool
  | .halt     => true
  | .ldi r _  => validRegByte r
  | .prn r    => validRegByte r
  | .mul a b  => validRegByte a && validRegByte b
  | .push r   => validRegByte r
  | .pop r    => validRegByte r

end Sys2Proof
end

