-- ==== Sys2Proof/Decode.lean ====
section
/-! DEFINITION. The decoder of spec/30_encoding.md R80 to R90, total on any bytes and rejecting by
name, the encoder written from the same tables, and the decoder unit's control word (R87). -/

namespace Sys2Proof

/-! ### The opcode map (R86) -/

def opHalt : Byte := 0b00000001#8
def opLdi  : Byte := 0b10000010#8
def opPrn  : Byte := 0b01000111#8
def opMul  : Byte := 0b10100010#8
def opPush : Byte := 0b01000101#8
def opPop  : Byte := 0b01000110#8

/-- The opcode byte of an instruction (R86). -/
def Instr.opcode : Instr → Byte
  | .halt    => opHalt
  | .ldi _ _ => opLdi
  | .prn _   => opPrn
  | .mul _ _ => opMul
  | .push _  => opPush
  | .pop _   => opPop

/-- The length in bytes of an instruction (R80, R86). -/
def Instr.length : Instr → Nat
  | .halt    => 1
  | .ldi _ _ => 3
  | .prn _   => 2
  | .mul _ _ => 3
  | .push _  => 2
  | .pop _   => 2

/-- Why bytes are no instruction: an opcode outside R86 (R88), or a byte the opcode asks for that
is not there (position 0 is the opcode). -/
inductive DecodeError where
  | unknownOpcode (op : Byte)
  | missingByte (position : Nat)
  deriving DecidableEq, Repr

/-- The per-opcode handlers' operand reads (R85, R86; 40_fetch_decode R101, R102): the opcode alone
says which operand bytes are asked for, byte 1 before byte 2; an opcode outside the table asks for
none. `operand k` supplies byte `k` of the instruction or stops. -/
def decodeOperands {ε : Type} (op : Byte) (operand : Nat → Except ε Byte) (unknown : Byte → ε) :
    Except ε Instr :=
  if op = opHalt then .ok .halt
  else if op = opLdi then do
    let r ← operand 1
    let v ← operand 2
    .ok (.ldi r v)
  else if op = opPrn then do
    let r ← operand 1
    .ok (.prn r)
  else if op = opMul then do
    let a ← operand 1
    let b ← operand 2
    .ok (.mul a b)
  else if op = opPush then do
    let r ← operand 1
    .ok (.push r)
  else if op = opPop then do
    let r ← operand 1
    .ok (.pop r)
  else .error (unknown op)

/-- Byte `k` of a list of bytes. -/
def listByte (bytes : List Byte) (k : Nat) : Except DecodeError Byte :=
  match bytes[k]? with
  | some b => .ok b
  | none   => .error (.missingByte k)

/-- The instruction at the head of `bytes`, and the bytes after it (R80). -/
def decode (bytes : List Byte) : Except DecodeError (Instr × List Byte) := do
  let op ← listByte bytes 0
  let i ← decodeOperands op (listByte bytes) .unknownOpcode
  .ok (i, bytes.drop i.length)

/-- The bytes of an instruction at increasing addresses (R55, R81). -/
def encode : Instr → List Byte
  | .halt    => [opHalt]
  | .ldi r v => [opLdi, r, v]
  | .prn r   => [opPrn, r]
  | .mul a b => [opMul, a, b]
  | .push r  => [opPush, r]
  | .pop r   => [opPop, r]

/-! ### The decoder unit (R87) -/

/-- ALU selects of 43_alu R141. -/
def aluAdd : BitVec 2 := 0b00#2
def aluSub : BitVec 2 := 0b01#2
def aluMul : BitVec 2 := 0b10#2

/-- The control word of `IR`, row for row of R87; `none` is `valid = 0`. -/
def controlWord (ir : Byte) : Option ControlWord :=
  if ir = opHalt then
    some ⟨.HALT, 1, [], none, .none, [], false⟩
  else if ir = opLdi then
    some ⟨.LDI, 3, [1], none, .none, [(.immediate, .operand1)], false⟩
  else if ir = opPrn then
    some ⟨.PRN, 2, [1], none, .none, [], true⟩
  else if ir = opMul then
    some ⟨.MUL, 3, [1, 2], some aluMul, .none, [(.aluResult, .operand1)], false⟩
  else if ir = opPush then
    some ⟨.PUSH, 2, [1], none, .writeAtSpDec, [(.spDec, .sp)], false⟩
  else if ir = opPop then
    some ⟨.POP, 2, [1], none, .readAtSp, [(.memData, .operand1), (.spInc, .sp)], false⟩
  else none

/-! ### The host's reading of an opcode-table word -/

/-- The three bytes of an instruction given as one number, first byte least significant, every bit
at or above `nbits` zero. -/
def tableBytes (nbits w : Nat) : List Byte :=
  let v := w % 2 ^ nbits
  [BitVec.ofNat 8 v, BitVec.ofNat 8 (v / 0x100), BitVec.ofNat 8 (v / 0x10000)]

/-- What the decoder reads from such an instruction. -/
def decodeTableWord (nbits w : Nat) : Option Instr :=
  match decode (tableBytes nbits w) with
  | .ok (i, _) => some i
  | .error _   => none

end Sys2Proof
end

