-- ==== Sys2Proof/Config.lean ====
section
/-! DEFINITION. What an implementation fixes (spec/00_scope.md R6) and the free values, which the
spec leaves open (spec/93_implementation_defined.md, "any value"). -/

namespace Sys2Proof

/-- The two configuration parameters of 00_scope R6. -/
structure Config.Params where
  /-- `SP_RESET`, the reset value of register 7 (44_stack R170). -/
  spReset    : Byte
  /-- `HALT_PC_ZERO`, whether HALT writes 0 to the pc (41_control R121). -/
  haltPcZero : Bool
  deriving DecidableEq, Repr

/-- The free values: nothing constrains them. A step or host action that needs one applies this to
the counter `State.draws` and advances the counter, so each is drawn once (log entries 2 and 3). -/
opaque Config.freeByte : Nat → Byte

end Sys2Proof
end

