-- ==== Sys2Proof/Machine/Params.lean ====
section
/-! DEFINITION. The values `State.reset` takes for the configuration parameters: the defaults of
spec/00_scope.md R6. -/

namespace Sys2Proof.Machine

/-- `SP_RESET = 0xF4`, `HALT_PC_ZERO = true` (R6). -/
def defaultParams : Config.Params := { spReset := 0xF4#8, haltPcZero := true }

end Sys2Proof.Machine
end

