-- ==== Sys2Proof/Machine/State.lean ====
section
/-! DEFINITION. The state of spec/10_state.md R37, plain data, and its value after reset (R36). -/

namespace Sys2Proof.Machine

/-- The 256 cells of `M` (10_state R30, 20_memory R50), as the list of the cells that do not hold 0,
addresses strictly rising. -/
abbrev Memory := List Host.Cell

/-- The run state (10_state R27). -/
inductive RunState where
  /-- Reset done, no run started. -/
  | idle
  /-- The run loop executes instructions. -/
  | running
  /-- HALT was executed. -/
  | halted
  /-- A fatal condition stopped the run. -/
  | faulted
  deriving DecidableEq, Repr

/-- The faults of the spec, with what each records (60_exceptions R181). A fault is ENTERED: the
step answers a next state with `run = faulted`, it does not stop the model. -/
inductive FaultCause where
  /-- The opcode byte is not one of the six. -/
  | unknownOpcode (op : Byte)
  /-- An access at an address of 256 or more. -/
  | memOutOfRange (addr : Word)
  /-- A register operand byte `b` of 8 or more at operand position `p`. -/
  | illegalRegister (p b : Byte)
  /-- An ALU select outside ADD, SUB, MUL; no program reaches it (43_alu R145). -/
  | unsupportedAluOp (select : BitVec 2)
  deriving DecidableEq, Repr

/-- The machine (10_state R37; `pendingOut` and `ready` from R35, R36; `cfg` from 00_scope R6). -/
structure State where
  /-- `x[0]` to `x[7]`; `x[7]` is the stack pointer (R20, R22). -/
  regs       : Vector Byte 8
  /-- The program counter, never reduced modulo 256 (R25). -/
  pc         : Word
  /-- The instruction register (R26). -/
  ir         : Byte
  /-- The memory (R30). -/
  mem        : Memory
  /-- The run state (R27). -/
  run        : RunState
  /-- `FAULT_CODE` (R28). -/
  faultCode  : Byte
  /-- `FAULT_PC` (R28). -/
  faultPc    : Word
  /-- `FAULT_IR` (R28). -/
  faultIr    : Byte
  /-- `FAULT_INFO` (R28). -/
  faultInfo  : Word
  /-- What PRINT_REG has emitted since reset, oldest first (R29). -/
  out        : List Byte
  /-- The output port: `none` is `out_valid = 0`, `some v` is `out_valid = 1` with `out_data = v`
  (R35, R36; 42_register_io R133). -/
  pendingOut : Option Byte
  /-- `ready`: the reset sequence has ended (R35; 70_reset_and_hazards R201). -/
  ready      : Bool
  /-- The configuration of 00_scope R6; nothing writes it (log entry 4). -/
  cfg        : Config.Params
  /-- The model's own: how many free values have been drawn (log entry 2). -/
  draws      : Nat
  deriving DecidableEq, Repr

/-- The model's faults: none. Every fault the spec describes is entered as a next state
(60_exceptions R182), so no step answers `.fault`; that this type is empty says so. -/
inductive Fault where
  deriving DecidableEq, Repr

/-- Why an instruction has no meaning. -/
inductive Refusal where
  /-- An instruction without a meaning in `exec`; raised by no arm (safe). -/
  | notModelled (mnemonic : String)
  deriving DecidableEq, Repr

/-- The state reset leaves (10_state R36) under the configuration `c`, the draw counter at `d`.
`ir` is DESIGN CHOICE 0: R36 leaves it unspecified (log entry 1). -/
def State.resetWith (c : Config.Params) (d : Nat) : State where
  regs       := (Vector.replicate 8 0#8).set 7 c.spReset
  pc         := 0#16
  ir         := 0#8
  mem        := []
  run        := .idle
  faultCode  := 0#8
  faultPc    := 0#16
  faultIr    := 0#8
  faultInfo  := 0#16
  out        := []
  pendingOut := none
  ready      := true
  cfg        := c
  draws      := d

/-- The machine right after reset, at the default configuration (10_state R36, 00_scope R6). -/
def State.reset : State := State.resetWith defaultParams 0

end Sys2Proof.Machine
end

