-- ==== Sys2Proof/Machine/Ops.lean ====
section
/-! DEFINITION. The named operations over memory, registers, the output port and the fault record,
entering a fault (spec/60_exceptions.md R182), and fetching an instruction (spec/40_fetch_decode.md
R101 to R104). The block has no return from a fault (60_exceptions R180, R184): FAULTED is left only
by reset, which is here as well. -/

namespace Sys2Proof.Machine

/-! ### The memory array (20_memory R50 to R54) -/

/-- The number of cells (00_scope R6). -/
def memSize : Nat := 256

/-- What a cell that the list does not name holds: the reset contents (10_state R36). -/
def memDefault : Byte := 0#8

/-- The contents of the cell at `a`. -/
def Memory.read : Memory → Nat → Byte
  | [], _ => memDefault
  | (k, v) :: m, a => if k = a then v else Memory.read m a

/-- The list without the cell at `a`. -/
def Memory.erase (m : Memory) (a : Nat) : Memory := m.filter (fun c => c.1 ≠ a)

/-- A cell put in front of the first one with a higher address. -/
def Memory.insert (a : Nat) (v : Byte) : Memory → Memory
  | [] => [(a, v)]
  | c :: m => if a < c.1 then (a, v) :: c :: m else c :: Memory.insert a v m

/-- `M[a] <- v`, keeping the canonical form: a cell that holds the default is not listed. -/
def Memory.write (m : Memory) (a : Nat) (v : Byte) : Memory :=
  if v = memDefault then Memory.erase m a else Memory.insert a v (Memory.erase m a)

/-- The canonical form: addresses strictly rising and below 256, no listed cell holding the
default. -/
def Memory.wf (m : Memory) : Bool :=
  decide (m.Pairwise (fun c d => c.1 < d.1)) && m.all (fun c => decide (c.1 < memSize) && c.2 != memDefault)

/-! ### Registers and the other fields -/

/-- Register 7 (10_state R22, 00_scope R6). -/
def spIndex : Fin 8 := 7

/-- `x[i]` (00_scope R9). -/
def State.getReg (s : State) (i : Fin 8) : Byte := s.regs[i]

/-- `x[i] <- v`. -/
def State.setReg (s : State) (i : Fin 8) (v : Byte) : State := { s with regs := s.regs.set i v }

/-- `SP`, another name for `x[7]` (10_state R22). -/
def State.sp (s : State) : Byte := s.getReg spIndex

/-- `pc <- target`. -/
def State.setPc (s : State) (target : Word) : State := { s with pc := target }

/-- The PC incrementer: the 16-bit sum `pc + len` (40_fetch_decode R106). -/
def pcPlus (pc : Word) (len : Nat) : Word := pc + BitVec.ofNat 16 len

/-- `pc <- pc + len`, the last action of every instruction but HALT (40_fetch_decode R106). -/
def State.advancePc (s : State) (len : Nat) : State := s.setPc (pcPlus s.pc len)

/-- `IR <- op` (10_state R26). -/
def State.setIr (s : State) (op : Byte) : State := { s with ir := op }

/-- `run <- r`. -/
def State.setRun (s : State) (r : RunState) : State := { s with run := r }

/-- The cells of `M` replaced. -/
def State.setMem (s : State) (m : Memory) : State := { s with mem := m }

/-! ### The memory primitives (20_memory R52, R53) -/

/-- `MemRead(addr, 1)`: the byte at `addr`; outside 0 to 255 it fails (R52, R54). -/
def State.memRead (s : State) (addr : Word) : Except FaultCause Byte :=
  if addr.toNat < memSize then .ok (s.mem.read addr.toNat) else .error (.memOutOfRange addr)

/-- `MemWrite(addr, 1, v)`: stores `v` at `addr`, same range contract (R53, R54). -/
def State.memWrite (s : State) (addr : Word) (v : Byte) : Except FaultCause State :=
  if addr.toNat < memSize then .ok (s.setMem (s.mem.write addr.toNat v)) else .error (.memOutOfRange addr)

/-- `Fetch(addr)` (40_fetch_decode R103). -/
def State.fetch (s : State) (addr : Word) : Except FaultCause Byte :=
  if memSize ≤ addr.toNat then .error (.memOutOfRange addr) else s.memRead addr

/-! ### The output port (42_register_io R133) -/

/-- The core drives `out_valid = 1`, `out_data = v`. -/
def State.driveOutput (s : State) (v : Byte) : State := { s with pendingOut := some v }

/-- One cycle at the port: with `out_valid = out_ready = 1` the host takes the value, which joins
`OUT`; otherwise the port holds. -/
def State.outputCycle (s : State) (outReady : Bool) : State :=
  match s.pendingOut, outReady with
  | some v, true => { s with out := s.out ++ [v], pendingOut := none }
  | _, _ => s

/-- `Emit(v)`: the value is driven and the host takes it. That the host does is its duty
(70_reset_and_hazards R210, R211; log entry 5). -/
def State.emit (s : State) (v : Byte) : State := (s.driveOutput v).outputCycle true

/-! ### Faults (60_exceptions R181, R182) -/

/-- `FAULT_CODE` of a fault (R181). -/
def FaultCause.code : FaultCause → Byte
  | .unknownOpcode _     => 0x01#8
  | .memOutOfRange _     => 0x02#8
  | .illegalRegister _ _ => 0x03#8
  | .unsupportedAluOp _  => 0x04#8

/-- `FAULT_INFO` of a fault (R181). -/
def FaultCause.info : FaultCause → Word
  | .unknownOpcode op     => zext 16 op
  | .memOutOfRange addr   => addr
  | .illegalRegister p b  => BitVec.ofNat 16 (p.toNat * 0x100 + b.toNat)
  | .unsupportedAluOp sel => zext 16 sel

/-- Fault entry: the run state and the fault record are written, nothing else (R182). -/
def State.enterFault (s : State) (c : FaultCause) (faultIr : Byte) : State :=
  { s with run := .faulted, faultCode := c.code, faultPc := s.pc, faultIr := faultIr, faultInfo := c.info }

/-- `raise` after the opcode fetch succeeded: `FAULT_IR <- IR` (R182). -/
def State.raise (s : State) (c : FaultCause) : State := s.enterFault c s.ir

/-- `raise` by the opcode fetch itself: `FAULT_IR` is unspecified, a free value (R28, R182; log
entry 2). -/
def State.raiseAtFetch (s : State) (c : FaultCause) : State :=
  { s.enterFault c (Config.freeByte s.draws) with draws := s.draws + 1 }

/-- The end of an instruction from `s`: its result, or the fault it raised with every write it
would have made discarded (00_scope R9 `raise`, R10). -/
def State.finish (s : State) : Except FaultCause State → Host.Outcome State Fault Refusal
  | .ok t    => .next t
  | .error c => .next (s.raise c)

/-! ### Reset (70_reset_and_hazards R200, R201) -/

/-- The end of the reset sequence: every piece of state at its value of 10_state R36, `ready = 1`.
The configuration and the draw counter are not the spec's state and stay. -/
def State.completeReset (s : State) : State := State.resetWith s.cfg s.draws

/-! ### Fetching an instruction (40_fetch_decode R101 to R104) -/

/-- The instruction whose opcode byte `op` was fetched at `pc`: lookup, then the operand bytes at
`pc+1` and `pc+2` as far as the opcode asks for them. -/
def State.fetchInstr (s : State) (op : Byte) : Except FaultCause Instr :=
  decodeOperands op (fun k => s.fetch (pcPlus s.pc k)) .unknownOpcode

/-- The bytes of `M` from address `a` on, at most `n`, ending at the end of memory. -/
def bytesFrom (m : Memory) : Nat → Nat → List Byte
  | 0, _ => []
  | n + 1, a => if a < memSize then m.read a :: bytesFrom m n (a + 1) else []

/-- The bytes at the program counter that an instruction may take (30_encoding R80). -/
def State.codeBytes (s : State) : List Byte := bytesFrom s.mem 3 s.pc.toNat

/-- Bytes stored from address `a` on; bytes that would lie past the end of memory are dropped. -/
def storeBytes (m : Memory) : Nat → List Byte → Memory
  | _, [] => m
  | a, b :: bs => storeBytes (if a < memSize then m.write a b else m) (a + 1) bs

end Sys2Proof.Machine
end

