-- ==== Sys2Proof/Machine/Operands.lean ====
section
/-! DEFINITION. The operand forms: the register operand byte and its check (spec/30_encoding.md R82,
spec/40_fetch_decode.md R105), and the stack-pointer arithmetic (spec/44_stack.md R161, R162). The
immediate operand (30_encoding R83) is its byte as it stands and needs no operation. -/

namespace Sys2Proof.Machine

/-- `b[2:0]`, an index 0 to 7. -/
def lowIndex (b : Byte) : Fin 8 := (b.extractLsb' 0 3).toFin

/-- `RegIdx(b, p)`: the index `b[2:0]`, or the fault IllegalRegister if `b[7:3] != 0` (R105). -/
def regIdx (b p : Byte) : Except FaultCause (Fin 8) :=
  if b.extractLsb' 3 5 ≠ 0#5 then .error (.illegalRegister p b) else .ok (lowIndex b)

/-- `sp_dec = (x[7] - 1 + 256) mod 256` (44_stack R161). -/
def spDec (sp : Byte) : Byte := BitVec.ofNat 8 (sp.toNat + 256 - 1)

/-- `sp_inc = (x[7] + 1) mod 256` (44_stack R161). -/
def spInc (sp : Byte) : Byte := BitVec.ofNat 8 (sp.toNat + 1)

/-- A data address: the 8-bit stack pointer on the 16-bit address input (20_memory R51, 44_stack
R162). -/
def dataAddr (sp : Byte) : Word := zext 16 sp

end Sys2Proof.Machine
end

