-- ==== Sys2Proof/Machine/Alu.lean ====
section
/-! DEFINITION. The ALU (spec/43_alu.md R140 to R147) and MULTIPLY (R151). -/

namespace Sys2Proof.Machine

/-- The ALU function: exact on integers, then reduced modulo 256; select 0b11 raises
UnsupportedAluOp (R141, R145). -/
def alu (op : BitVec 2) (a b : Byte) : Except FaultCause Byte :=
  if op = aluAdd then .ok (BitVec.ofNat 8 (a.toNat + b.toNat))
  else if op = aluSub then .ok (BitVec.ofNat 8 (a.toNat + 256 - b.toNat))
  else if op = aluMul then .ok (BitVec.ofNat 8 (a.toNat * b.toNat))
  else .error (.unsupportedAluOp op)

/-- MULTIPLY (R151). -/
def execMul (rb1 rb2 : Byte) (s : State) : Host.Outcome State Fault Refusal :=
  s.finish do
    let a ← regIdx rb1 1
    let b ← regIdx rb2 2
    let y ← alu aluMul (s.getReg a) (s.getReg b)
    .ok ((s.setReg a y).advancePc 3)

end Sys2Proof.Machine
end

