-- ==== Sys2Proof/Machine/Control.lean ====
section
/-! DEFINITION. HALT (spec/41_control.md R121), the only control instruction (R122, R123). -/

namespace Sys2Proof.Machine

/-- The pc HALT leaves: 0 if `HALT_PC_ZERO`, else the address of the HALT (R121). -/
def haltPc (s : State) : Word := if s.cfg.haltPcZero then 0#16 else s.pc

/-- HALT (R121): no operand, no check, no fault. -/
def execHalt (s : State) : Host.Outcome State Fault Refusal :=
  .next ((s.setRun .halted).setPc (haltPc s))

end Sys2Proof.Machine
end

