-- ==== Sys2Proof/Machine/RegisterIo.lean ====
section
/-! DEFINITION. LOAD_IMMEDIATE (spec/42_register_io.md R131) and PRINT_REG (R134). -/

namespace Sys2Proof.Machine

/-- LOAD_IMMEDIATE (R131). -/
def execLdi (rb1 v : Byte) (s : State) : Host.Outcome State Fault Refusal :=
  s.finish do
    let r ← regIdx rb1 1
    .ok ((s.setReg r v).advancePc 3)

/-- PRINT_REG (R134): the register's content is emitted, never the operand byte (R135). -/
def execPrn (rb1 : Byte) (s : State) : Host.Outcome State Fault Refusal :=
  s.finish do
    let r ← regIdx rb1 1
    .ok ((s.emit (s.getReg r)).advancePc 2)

end Sys2Proof.Machine
end

