-- ==== Sys2Proof/Machine/Stack.lean ====
section
/-! DEFINITION. PUSH (spec/44_stack.md R165) and POP (R168). Statements run top to bottom, each on
the state the ones before it left (spec/00_scope.md R10): PUSH reads `x[r]` after the decrement, POP
increments the value `x[7]` holds after the write to `x[r]`. -/

namespace Sys2Proof.Machine

/-- PUSH (R165). -/
def execPush (rb1 : Byte) (s : State) : Host.Outcome State Fault Refusal :=
  s.finish do
    let r ← regIdx rb1 1
    let s1 := s.setReg spIndex (spDec s.sp)
    let s2 ← s1.memWrite (dataAddr s1.sp) (s1.getReg r)
    .ok (s2.advancePc 2)

/-- POP (R168). -/
def execPop (rb1 : Byte) (s : State) : Host.Outcome State Fault Refusal :=
  s.finish do
    let r ← regIdx rb1 1
    let v ← s.memRead (dataAddr s.sp)
    let s1 := s.setReg r v
    let s2 := s1.setReg spIndex (spInc s1.sp)
    .ok (s2.advancePc 2)

end Sys2Proof.Machine
end

