-- ==== Sys2Proof/Machine/Dispatch.lean ====
section
/-! DEFINITION. The dispatch of spec/40_fetch_decode.md R108: one arm per instruction, no other. -/

namespace Sys2Proof.Machine

def exec (i : Instr) (s : State) : Host.Outcome State Fault Refusal :=
  match i with
  -- control (41_control)
  | .halt => Sys2Proof.Machine.execHalt s
  -- register load and output (42_register_io)
  | .ldi r v => Sys2Proof.Machine.execLdi r v s
  | .prn r => Sys2Proof.Machine.execPrn r s
  -- ALU (43_alu)
  | .mul a b => Sys2Proof.Machine.execMul a b s
  -- stack (44_stack)
  | .push r => Sys2Proof.Machine.execPush r s
  | .pop r => Sys2Proof.Machine.execPop r s

end Sys2Proof.Machine
end

