-- ==== Sys2Proof/Machine/Step.lean ====
section
/-! DEFINITION. One step (spec/40_fetch_decode.md R100, R101; spec/70_reset_and_hazards.md R200,
R201), and how a test word comes to be the next instruction. -/

namespace Sys2Proof.Machine

/-- One step of the run loop from a RUNNING state (R101): the opcode fetch, the write of `IR`, the
operand fetches, and the instruction; a fetch that fails enters its fault. -/
def runStep (s : State) : Host.Outcome State Fault Refusal :=
  match s.fetch s.pc with
  | .error c => .next (s.raiseAtFetch c)
  | .ok op =>
    match (s.setIr op).fetchInstr op with
    | .error c => .next ((s.setIr op).raise c)
    | .ok i    => exec i (s.setIr op)

/-- One step of the block. While `ready = 0` it is the rest of the reset sequence, one step here
(R200, R201; log entry 7). In IDLE, HALTED and FAULTED nothing executes (R100; log entry 8). -/
def step (s : State) : Host.Outcome State Fault Refusal :=
  if s.ready then
    match s.run with
    | .running => runStep s
    | .idle    => .next s
    | .halted  => .next s
    | .faulted => .next s
  else .next s.completeReset

/-- `s` with the instruction of table word `w` stored at the pc and the block RUNNING: the load and
the start the host would do (70_reset_and_hazards R202; log entry 12). -/
def State.withFetchWord (s : State) (nbits w : Nat) : State :=
  { s with mem := storeBytes s.mem s.pc.toNat (tableBytes nbits w), run := .running, ready := true }

end Sys2Proof.Machine
end

