-- ==== Sys2Proof/Machine/Ports.lean ====
section
/-! DEFINITION. The host's side of the ports (spec/10_state.md R35, spec/70_reset_and_hazards.md
R210): reset, start, loader writes, the status and debug outputs, the trace data and the fault
report. Each is one action between two steps (spec/00_scope.md R7). -/

namespace Sys2Proof.Machine

/-! ### Inputs -/

/-- `rst = 1`: the reset sequence starts, whatever the block was doing (70_reset_and_hazards R200);
`ready = 0` until `step` completes it (R201). That every other field keeps its value until then is
the model's choice (log entries 7 and 19). -/
def State.assertReset (s : State) : State := { s with ready := false }

/-- A start, the source's `run()` call: accepted when `ready = 1` in IDLE or HALTED, it sets
`run <- RUNNING` and changes nothing else; otherwise it is ignored (10_state R35, 40_fetch_decode
R110). -/
def State.start (s : State) : State :=
  if s.ready = true ∧ (s.run = .idle ∨ s.run = .halted) then s.setRun .running else s

/-- Whether the loader port takes a write: `ready = 1` and `run != RUNNING` (20_memory R61). -/
def State.loaderOpen (s : State) : Bool := s.ready && s.run != .running

/-- A cycle with `ld_we = 1` (20_memory R61); ignored where the port is not open. -/
def State.loaderWrite (s : State) (addr data : Byte) : State :=
  if s.loaderOpen then s.setMem (s.mem.write addr.toNat data) else s

/-! ### Status outputs -/

/-- The encoding of the run state on the `state` port (10_state R27). -/
def RunState.encoding : RunState → BitVec 2
  | .idle    => 0b00#2
  | .running => 0b01#2
  | .halted  => 0b10#2
  | .faulted => 0b11#2

/-- The status and output ports of 10_state R35. `outData` has a value only while `outValid`. -/
structure StatusPorts where
  ready     : Bool
  outValid  : Bool
  outData   : Option Byte
  state     : BitVec 2
  faultCode : Byte
  faultPc   : Word
  faultIr   : Byte
  faultInfo : Word
  deriving DecidableEq, Repr

/-- What the status and output ports show (10_state R35, 60_exceptions R189). While `ready = 0` the
spec does not say what `state`, the fault ports, `out_valid` and `out_data` show: that they show the
values from before the reset is the model's choice (log entry 19). -/
def State.statusPorts (s : State) : StatusPorts where
  ready     := s.ready
  outValid  := s.pendingOut.isSome
  outData   := s.pendingOut
  state     := s.run.encoding
  faultCode := s.faultCode
  faultPc   := s.faultPc
  faultIr   := s.faultIr
  faultInfo := s.faultInfo

/-! ### Debug outputs, valid when `ready = 1` and `run != RUNNING`; otherwise their value is
unspecified and the model gives none (10_state R35, 20_memory R69, 70_reset_and_hazards R201; log
entry 11) -/

/-- Whether the debug outputs are valid. -/
def State.debugValid (s : State) : Bool := s.ready && s.run != .running

/-- `dbg_mem = M[dbg_addr]` (20_memory R69). -/
def State.dbgMem (s : State) (addr : Byte) : Option Byte :=
  if s.debugValid then some (s.mem.read addr.toNat) else none

/-- `dbg_reg = x[dbg_reg_sel]`. -/
def State.dbgReg (s : State) (sel : Fin 8) : Option Byte :=
  if s.debugValid then some (s.getReg sel) else none

/-- `dbg_pc = pc`. -/
def State.dbgPc (s : State) : Option Word := if s.debugValid then some s.pc else none

/-- `dbg_ir = IR`. -/
def State.dbgIr (s : State) : Option Byte := if s.debugValid then some s.ir else none

/-- What the block supplies for the host's trace (60_exceptions R194): the pc, the bytes at `pc`,
`pc+1`, `pc+2` (absent past the end of memory) and the registers. The text layout is not in the
spec and is not modelled. -/
structure TraceData where
  pc    : Word
  bytes : List (Option Byte)
  regs  : Vector Byte 8
  deriving DecidableEq, Repr

/-- The byte at `addr` as the trace shows it: absent past the end of memory, where `dbg_addr` cannot
reach (60_exceptions R194). -/
def State.traceByte (s : State) (addr : Nat) : Option Byte :=
  if addr < memSize then some (s.mem.read addr) else none

/-- The trace data, while the debug ports are valid (60_exceptions R194). -/
def State.traceData (s : State) : Option TraceData :=
  if s.debugValid then
    some { pc := s.pc
           bytes := [s.traceByte s.pc.toNat, s.traceByte (s.pc.toNat + 1),
                     s.traceByte (s.pc.toNat + 2)]
           regs := s.regs }
  else none

/-! ### Reporting and output text (60_exceptions R189, 42_register_io R133) -/

/-- Whether the host reports a fault and ends with a non-zero exit status (60_exceptions R189); the
message text and the status value are the host's own. -/
def State.hostReportsFault (s : State) : Bool := s.faultCode != 0#8

/-- The character of a decimal digit. -/
def decimalDigit (d : Nat) : Char := Char.ofNat ('0'.toNat + d % 10)

/-- The decimal digits of a byte, without leading zeros. -/
def decimalText (v : Byte) : List Char :=
  let n := v.toNat
  if n < 10 then [decimalDigit n]
  else if n < 100 then [decimalDigit (n / 10), decimalDigit n]
  else [decimalDigit (n / 100), decimalDigit (n / 10), decimalDigit n]

/-- The text the host prints for `OUT`: each value as its decimal digits and a line end (42_register_io
R133, 92_eei_decisions D18). -/
def outputText (out : List Byte) : List Char := out.flatMap (fun v => decimalText v ++ ['\n'])

end Sys2Proof.Machine
end

