-- ==== Sys2Proof/Machine/Loader.lean ====
section
/-! DEFINITION. The host's `load` (spec/20_memory.md R62), the program file format (R63), and the
host's actions as one type. -/

namespace Sys2Proof.Machine

/-! ### load (R62) -/

/-- `MemWrite(i, 1, b[i])` for ascending `i` from `addr` on, through the loader port, each value
masked to 8 bits (R53, R62). -/
def loadFrom (s : State) : Nat → List Nat → State
  | _, [] => s
  | addr, b :: bs => loadFrom (s.loaderWrite (BitVec.ofNat 8 addr) (BitVec.ofNat 8 b)) (addr + 1) bs

/-- Memory whose `n` lowest cells each hold a free value, drawn from `d` on. -/
def freeCells (d : Nat) : Nat → Memory
  | 0 => []
  | n + 1 => (freeCells d n).write n (Config.freeByte (d + n))

/-- Every cell unspecified (R62 after a failed load; log entry 3). -/
def State.scrambleMem (s : State) : State :=
  { s with mem := freeCells s.draws memSize, draws := s.draws + memSize }

/-- How `load` ends. -/
inductive LoadResult where
  | loaded (s : State)
  /-- LoadTooLong, a host-side error (60_exceptions R186): the host must not start. -/
  | tooLong (s : State)
  deriving DecidableEq, Repr

/-- The machine after `load`, either way. -/
def LoadResult.state : LoadResult → State
  | .loaded s  => s
  | .tooLong s => s

/-- `load(bytes)` (R62). Through a closed loader port its writes are ignored (R61); that a `load` of at
most 256 bytes then still answers `loaded` is the model's choice (log entry 21). -/
def State.load (s : State) (bytes : List Nat) : LoadResult :=
  if memSize < bytes.length then .tooLong (if s.loaderOpen then s.scrambleMem else s)
  else .loaded (loadFrom s 0 bytes)

/-! ### The program file (R63) -/

/-- The lines of a text, separated by line ends. -/
def splitLines : List Char → List (List Char)
  | [] => [[]]
  | c :: cs =>
    if c = '\n' then [] :: splitLines cs
    else match splitLines cs with
      | [] => [[c]]
      | l :: ls => (c :: l) :: ls

/-- The line up to, not including, its first `#`. -/
def stripComment (line : List Char) : List Char := line.takeWhile (· ≠ '#')

/-- The whitespace of R63. -/
def isBlank (c : Char) : Bool := c = ' ' || c = '\t' || c = '\r'

/-- Leading and trailing whitespace removed. -/
def trimBlanks (cs : List Char) : List Char :=
  ((cs.dropWhile isBlank).reverse.dropWhile isBlank).reverse

/-- The base-2 value of a string of binary digits. -/
def binaryValue (cs : List Char) : Nat := cs.foldl (fun n c => 2 * n + (if c = '1' then 1 else 0)) 0

/-- The value a line gives, if any (R63). -/
def lineValue (line : List Char) : Option Nat :=
  let t := trimBlanks (stripComment line)
  if t = [] then none
  else if t.all (fun c => c = '0' || c = '1') then some (binaryValue t % 256)
  else none

/-- The bytes of a program file (R63). -/
def parseProgramFile (text : List Char) : List Nat := (splitLines text).filterMap lineValue

/-! ### The host's actions (70_reset_and_hazards R210) -/

/-- What the host may do to the block between two steps. Taking an output value is part of
PRINT_REG's own step (42_register_io R133), and the observing actions change nothing. -/
inductive HostAction where
  | reset
  | start
  | loaderWrite (addr data : Byte)
  | load (bytes : List Nat)
  deriving DecidableEq, Repr

/-- The block after a host action. -/
def HostAction.apply : HostAction → State → State
  | .reset, s => s.assertReset
  | .start, s => s.start
  | .loaderWrite addr data, s => s.loaderWrite addr data
  | .load bytes, s => (s.load bytes).state

end Sys2Proof.Machine
end

