-- ==== Sys2Proof/Machine/Assembly.lean ====
section
/-! DEFINITION. The assembler syntax of spec/30_encoding.md R91 to R93: one instruction a line, a
mnemonic and its operands. Text only; no rule of the machine depends on it. -/

namespace Sys2Proof.Machine

/-! ### Writing an instruction -/

/-- The mnemonic of R92, as characters. -/
def mnemonicText : Instr → List Char
  | .halt    => ['H', 'A', 'L', 'T']
  | .ldi _ _ => ['L', 'D', 'I']
  | .prn _   => ['P', 'R', 'N']
  | .mul _ _ => ['M', 'U', 'L']
  | .push _  => ['P', 'U', 'S', 'H']
  | .pop _   => ['P', 'O', 'P']

/-- A register as `R0` to `R7`; a byte that names no register has no spelling. -/
def regText (b : Byte) : Option (List Char) :=
  if b.toNat < 8 then some ['R', decimalDigit b.toNat] else none

/-- The line of an instruction, operands in the encoding's order (R91). -/
def asmText (i : Instr) : Option (List Char) :=
  match i with
  | .halt => some (mnemonicText i)
  | .ldi r v => (regText r).map (fun t => mnemonicText i ++ [' '] ++ t ++ [',', ' '] ++ decimalText v)
  | .prn r => (regText r).map (fun t => mnemonicText i ++ [' '] ++ t)
  | .mul a b => do
    let t ← regText a
    let u ← regText b
    some (mnemonicText i ++ [' '] ++ t ++ [',', ' '] ++ u)
  | .push r => (regText r).map (fun t => mnemonicText i ++ [' '] ++ t)
  | .pop r => (regText r).map (fun t => mnemonicText i ++ [' '] ++ t)

/-! ### Reading a line -/

/-- The value of a digit in base 16. -/
def digitValue (c : Char) : Option Nat :=
  if '0' ≤ c ∧ c ≤ '9' then some (c.toNat - '0'.toNat)
  else if 'a' ≤ c ∧ c ≤ 'f' then some (c.toNat - 'a'.toNat + 10)
  else if 'A' ≤ c ∧ c ≤ 'F' then some (c.toNat - 'A'.toNat + 10)
  else none

/-- The value of digits in a base, read on from `acc`. -/
def digitsFrom (base : Nat) : Nat → List Char → Option Nat
  | acc, [] => some acc
  | acc, c :: cs =>
    match digitValue c with
    | some d => if d < base then digitsFrom base (base * acc + d) cs else none
    | none => none

/-- A non-empty string of digits whose value is 0 to 255. -/
def byteDigits (base : Nat) (cs : List Char) : Option Byte :=
  if cs = [] then none
  else match digitsFrom base 0 cs with
    | some n => if n < 256 then some (BitVec.ofNat 8 n) else none
    | none => none

/-- An immediate: decimal, `0x` hexadecimal or `0b` binary, 0 to 255 (R91). -/
def parseImmediate (cs : List Char) : Option Byte :=
  match cs with
  | '0' :: 'x' :: ds => byteDigits 16 ds
  | '0' :: 'b' :: ds => byteDigits 2 ds
  | _ => byteDigits 10 cs

/-- A register: `R0` to `R7`, or `SP` for register 7 (R91, R92). -/
def parseRegister (cs : List Char) : Option Byte :=
  match cs with
  | ['S', 'P'] => some 7#8
  | ['R', d] => if '0' ≤ d ∧ d ≤ '7' then some (BitVec.ofNat 8 (d.toNat - '0'.toNat)) else none
  | _ => none

/-- Operands separated by a comma and a space (R91). -/
def splitOperands : List Char → List (List Char)
  | [] => [[]]
  | ',' :: ' ' :: cs => [] :: splitOperands cs
  | c :: cs =>
    match splitOperands cs with
    | [] => [[c]]
    | o :: os => (c :: o) :: os

/-- The mnemonics of R92: the short forms, the alias of HALT and the source names. -/
def mnemonicKind (m : List Char) : Option Kind :=
  if m = "HALT".toList ∨ m = "HLT".toList then some .HALT
  else if m = "LDI".toList ∨ m = "LOAD_IMMEDIATE".toList then some .LDI
  else if m = "PRN".toList ∨ m = "PRINT_REG".toList then some .PRN
  else if m = "MUL".toList ∨ m = "MULTIPLY".toList then some .MUL
  else if m = "PUSH".toList then some .PUSH
  else if m = "POP".toList then some .POP
  else none

/-- An instruction from its kind and the texts of its operands. -/
def assembleKind (k : Kind) (operands : List (List Char)) : Option Instr :=
  match k, operands with
  | .HALT, [] => some .halt
  | .LDI, [r, v] => do
    let r ← parseRegister r
    let v ← parseImmediate v
    some (.ldi r v)
  | .PRN, [r] => (parseRegister r).map .prn
  | .MUL, [a, b] => do
    let a ← parseRegister a
    let b ← parseRegister b
    some (.mul a b)
  | .PUSH, [r] => (parseRegister r).map .push
  | .POP, [r] => (parseRegister r).map .pop
  | _, _ => none

/-- One instruction without comment or surrounding whitespace (R91). -/
def parseInstr (cs : List Char) : Option Instr :=
  let m := cs.takeWhile (fun c => !isBlank c)
  let rest := (cs.dropWhile (fun c => !isBlank c)).dropWhile isBlank
  match mnemonicKind m with
  | some k => assembleKind k (if rest = [] then [] else splitOperands rest)
  | none => none

/-- The bytes of one line, one instruction with an optional comment after it (R91). R91 says nothing of
a line with no instruction: that a blank or comment-only line gives no bytes, and that any other line
outside the syntax is refused, is the model's choice (log entry 14). -/
def assembleLine (line : List Char) : Option (List Byte) :=
  let t := trimBlanks (stripComment line)
  if t = [] then some [] else (parseInstr t).map encode

end Sys2Proof.Machine
end

