-- ==== Sys2Proof/Machine/Datapath.lean ====
section
/-! DEFINITION. The units of the block as the spec interconnects them: the SRAM controller's request
interface (spec/20_memory.md R51), the register-file ports (spec/10_state.md R24), the ALU's outputs
(spec/43_alu.md R146), the dispatch multiplexer (spec/40_fetch_decode.md R107), all steered by the
decoder's control word (spec/30_encoding.md R87). `exec` does not use this file: that the two agree
is a statement. -/

namespace Sys2Proof.Machine

/-! ### SRAM controller (20_memory R51) -/

structure SramRequest where
  addr  : Word
  we    : Bool
  wdata : Byte
  deriving DecidableEq, Repr

/-- `rdata` is defined for a read in range only. -/
structure SramResponse where
  rdata : Option Byte
  oor   : Bool
  deriving DecidableEq, Repr

/-- One access: out of range it reads nothing and writes nothing. -/
def sramAccess (m : Memory) (q : SramRequest) : SramResponse × Memory :=
  if q.addr.toNat < memSize then
    if q.we then (⟨none, false⟩, m.write q.addr.toNat q.wdata)
    else (⟨some (m.read q.addr.toNat), false⟩, m)
  else (⟨none, true⟩, m)

/-! ### ALU outputs (43_alu R146) -/

structure AluOutputs where
  y   : Option Byte
  err : Bool
  deriving DecidableEq, Repr

/-- `alu_err` is 1 for the select without an operation, and `alu_y` then means nothing. -/
def aluOutputs (op : BitVec 2) (a b : Byte) : AluOutputs :=
  match alu op a b with
  | .ok y    => ⟨some y, false⟩
  | .error _ => ⟨none, true⟩

/-! ### The register-operand checks a control word asks for (30_encoding R87, 40_fetch_decode R102) -/

/-- Byte 1 or byte 2 of the instruction. -/
def operandByte (rb1 rb2 : Byte) (p : Nat) : Byte := if p = 1 then rb1 else rb2

/-- The listed operand bytes checked in order; the first that names no register raises. -/
def checkRegs (rb1 rb2 : Byte) : List Nat → Except FaultCause Unit
  | [] => .ok ()
  | p :: ps =>
    match regIdx (operandByte rb1 rb2 p) (BitVec.ofNat 8 p) with
    | .error c => .error c
    | .ok _ => checkRegs rb1 rb2 ps

/-! ### The dispatch multiplexer (40_fetch_decode R107) -/

/-- The value on the register write port, from the state as it stands at the write. -/
def wbValue (src : WbSource) (imm aluY memData : Byte) (s : State) : Byte :=
  match src with
  | .immediate => imm
  | .aluResult => aluY
  | .memData   => memData
  | .spDec     => spDec s.sp
  | .spInc     => spInc s.sp

/-- The register the write port addresses. -/
def wbIndex (dst : WbDest) (r : Fin 8) : Fin 8 :=
  match dst with
  | .operand1 => r
  | .sp       => spIndex

/-- The write-backs of a control word, in order. -/
def writeBacks (imm aluY memData : Byte) (r : Fin 8) : List (WbSource × WbDest) → State → State
  | [], s => s
  | w :: ws, s =>
    writeBacks imm aluY memData r ws (s.setReg (wbIndex w.2 r) (wbValue w.1 imm aluY memData s))

/-- The next pc: the incrementer's sum, or HALT's value (40_fetch_decode R106, R107). -/
def nextPc (cw : ControlWord) (s : State) : Word :=
  if cw.kind = .HALT then haltPc s else pcPlus s.pc cw.len

/-- One instruction through the units, from its control word and its operand bytes. -/
def datapath (cw : ControlWord) (rb1 rb2 : Byte) (s : State) : State :=
  match checkRegs rb1 rb2 cw.regs with
  | .error c => s.raise c
  | .ok () =>
    let r := lowIndex rb1
    let aluY := match cw.aluOp with
      | some op => (aluOutputs op (s.getReg r) (s.getReg (lowIndex rb2))).y.getD 0
      | none => 0
    let memData := (sramAccess s.mem ⟨dataAddr s.sp, false, 0⟩).1.rdata.getD 0
    let s1 := writeBacks rb2 aluY memData r cw.writeBack s
    let s2 := if cw.mem = .writeAtSpDec then
        s1.setMem (sramAccess s1.mem ⟨dataAddr (spDec s.sp), true, s1.getReg r⟩).2
      else s1
    let s3 := if cw.toOutput then s2.emit (s2.getReg r) else s2
    let s4 := if cw.kind = .HALT then s3.setRun .halted else s3
    s4.setPc (nextPc cw s)

end Sys2Proof.Machine
end

