-- ==== Sys2Proof/Safety.lean ====
section
/-! DEFINITION. The terms claims use: the invariant of the block, what a frame keeps, when a run has
ended and within how many steps (spec/70_reset_and_hazards.md R212), and the host's duties (R210). -/

namespace Sys2Proof.Machine

/-! ### The invariant -/

/-- The fault record's part: FAULTED is the run state exactly when a fault code is recorded
(10_state R27, R28), the code is one a program can reach (60_exceptions R181), the record is zero
without a fault, and `FAULT_PC` is the pc, which a fault leaves unchanged (60_exceptions R182). -/
def State.FaultRecordInv (s : State) : Prop :=
  if s.run = .faulted then
    (s.faultCode = 0x01#8 ∨ s.faultCode = 0x02#8 ∨ s.faultCode = 0x03#8) ∧ s.faultPc = s.pc ∧
      (s.faultCode ≠ 0x02#8 → s.faultIr = s.ir)
  else s.faultCode = 0#8 ∧ s.faultPc = 0#16 ∧ s.faultIr = 0#8 ∧ s.faultInfo = 0#16

/-- What holds of the block in every state: memory in its canonical form; the pc at most 258
(10_state R25); no value waiting at the output port between instructions (42_register_io R133); the
fault record as above; IDLE is the state before the first run (60_exceptions R195); after HALT, `IR`
is HALT's opcode and the pc is 0 under `HALT_PC_ZERO` (41_control R121). -/
structure State.Inv (s : State) : Prop where
  memory      : s.mem.wf = true
  pcBound     : s.pc.toNat ≤ 258
  portIdle    : s.pendingOut = none
  faultRecord : s.FaultRecordInv
  idle        : s.run = .idle → s.pc = 0#16 ∧ s.out = []
  halted      : s.run = .halted → s.ir = opHalt ∧ (s.cfg.haltPcZero = true → s.pc = 0#16)

/-! ### Frames -/

/-- The fault record is the same (10_state R28). -/
structure SameFaultRecord (s t : State) : Prop where
  code : t.faultCode = s.faultCode
  pc   : t.faultPc = s.faultPc
  ir   : t.faultIr = s.faultIr
  info : t.faultInfo = s.faultInfo

/-- The fields that no instruction, once fetched, ever writes: `IR` (the fetch wrote it), `ready`,
the configuration and the draw counter. -/
structure SameFixed (s t : State) : Prop where
  ir    : t.ir = s.ir
  ready : t.ready = s.ready
  cfg   : t.cfg = s.cfg
  draws : t.draws = s.draws

/-- Every register but those in `except` is the same. -/
def SameRegsExcept (except : List (Fin 8)) (s t : State) : Prop :=
  ∀ q : Fin 8, q ∉ except → t.getReg q = s.getReg q

/-- Every byte of memory reads as before. -/
def SameMem (s t : State) : Prop := ∀ a : Nat, t.mem.read a = s.mem.read a

/-- The output stream and the output port are the same. -/
def SameOut (s t : State) : Prop := t.out = s.out ∧ t.pendingOut = s.pendingOut

/-- Where PUSH stores: the decremented stack pointer (44_stack R161, R165). -/
def pushAddr (s : State) : Nat := (dataAddr (spDec s.sp)).toNat

/-! ### The end of a run -/

/-- A run's final states (70_reset_and_hazards R212). -/
def State.Stopped (s : State) : Prop := s.run = .halted ∨ s.run = .faulted

/-- The bound of 70_reset_and_hazards R212 on the steps of a run from `pc = p`:
`ceil((256 - p) / 2) + 1`, the difference 0 for a pc past the end. -/
def runBound (p : Nat) : Nat := (256 - p + 1) / 2 + 1

/-! ### Fault priority (60_exceptions R183) -/

/-- The first check of the next instruction that fails, in the order of R183: opcode fetch, unknown
opcode, operand fetches in byte order, register checks in byte order. Written from R183 and the
decoder's control word, not from `step`. -/
def firstFault (s : State) : Option FaultCause :=
  let a := s.pc.toNat
  if 256 ≤ a then some (.memOutOfRange s.pc)
  else match controlWord (s.mem.read a) with
    | none => some (.unknownOpcode (s.mem.read a))
    | some cw =>
      if 2 ≤ cw.len ∧ 256 ≤ a + 1 then some (.memOutOfRange (s.pc + 1#16))
      else if 3 ≤ cw.len ∧ 256 ≤ a + 2 then some (.memOutOfRange (s.pc + 2#16))
      else if 1 ∈ cw.regs ∧ 8 ≤ (s.mem.read (a + 1)).toNat then
        some (.illegalRegister 1 (s.mem.read (a + 1)))
      else if 2 ∈ cw.regs ∧ 8 ≤ (s.mem.read (a + 2)).toNat then
        some (.illegalRegister 2 (s.mem.read (a + 2)))
      else none

/-- A step from `s` to `t` raised exactly the fault given, or none: what R182 records of the fault,
or FAULTED not entered and the record untouched. -/
def RaisedExactly (s t : State) : Option FaultCause → Prop
  | some c => t.run = .faulted ∧ t.faultCode = c.code ∧ t.faultInfo = c.info ∧ t.faultPc = s.pc
  | none => t.run ≠ .faulted ∧ SameFaultRecord s t

/-! ### What a program cannot see (10_state R26, R28, R29) -/

/-- The state without what no instruction reads: `IR`, the fault record, `OUT` and the draw
counter. -/
def State.programView (s : State) : State :=
  { s with ir := 0, faultCode := 0, faultPc := 0, faultIr := 0, faultInfo := 0, out := [], draws := 0 }

/-! ### The stack property (44_stack R169) -/

/-- A PUSH of `r` from `s` followed by a POP into `q`, ending in `u`, restored the value and the
stack pointer and left the value in memory. -/
def Balanced (s u : State) (r q : Fin 8) : Prop :=
  u.getReg q = s.getReg r ∧ u.sp = s.sp ∧ u.mem.read (s.sp - 1#8).toNat = s.getReg r

/-! ### The host's duties (R210) -/

/-- What the host must remember of its loads (R210). -/
inductive LoadStatus where
  /-- A start is allowed. -/
  | clean
  /-- A `load` failed: a reset and a successful load must come before the next start. -/
  | failed
  /-- Reset after a failed load: a successful load must come before the next start. -/
  | awaitingLoad
  deriving DecidableEq, Repr

/-- The host's view of a session: the block, and the state of its loads. -/
structure Session where
  machine : State
  loads   : LoadStatus
  deriving DecidableEq, Repr

/-- What R210 allows the host: reset at any time; everything else only at `ready = 1`; loader writes
not while RUNNING; no start after a failed load without a reset and a successful load. R210 lists a
start in IDLE or HALTED; that one in RUNNING or FAULTED, which the block ignores, is not forbidden
here is the model's choice (log entry 20). -/
def Session.allowed (h : Session) : HostAction → Bool
  | .reset           => true
  | .start           => h.machine.ready && h.loads == .clean
  | .loaderWrite _ _ => h.machine.ready && h.machine.run != .running
  | .load _          => h.machine.ready && h.machine.run != .running

/-- The load status after a host action. Whether a `load` failed is told by its length alone, as R62
tells it: that one of at most 256 bytes through a closed loader port, which writes nothing, counts as
successful is the model's choice (log entry 21). -/
def LoadStatus.after (l : LoadStatus) : HostAction → LoadStatus
  | .reset => if l = .failed then .awaitingLoad else l
  | .load bytes =>
    if memSize < bytes.length then .failed else if l = .awaitingLoad then .clean else l
  | .start => l
  | .loaderWrite _ _ => l

/-- A session after a host action. -/
def Session.act (h : Session) (a : HostAction) : Session :=
  { machine := a.apply h.machine, loads := h.loads.after a }

end Sys2Proof.Machine
end

