-- ==== Sys2Proof/Certificates/Slice0/Obligations.lean ====
section
/-! DEFINITION. The statements for the provers. Each docstring names the rule of spec/ it
formalises. Addresses, sums and comparisons are written out again here, not taken from the
meanings. -/

open Sys2Proof Sys2Proof.Machine

/-! ## The step -/

/-- R101, R102: where the bytes at the pc decode to `i`, a step of the RUNNING block is `exec` of `i`
after `IR` has taken its opcode. -/
def Obligations.StepRunsDecodedInstruction : Prop :=
  ∀ (s : State) (i : Instr) (rest : List Byte),
    s.ready = true → s.run = .running → decode s.codeBytes = .ok (i, rest) →
      step s = exec i { s with ir := i.opcode }

/-- R100: in IDLE, HALTED and FAULTED nothing executes; that a step then answers the same state is the
model's reading (log entry 8). -/
def Obligations.StepIdlesOutsideRunning : Prop :=
  ∀ s : State, s.ready = true → s.run ≠ .running → step s = .next s

/-- Every step, and every instruction on every state, answers a next state: no form is refused and
every fault is entered as a next state (log entry 16). -/
def Obligations.EveryStepAnswersNext : Prop :=
  (∀ s : State, ∃ t, step s = .next t) ∧ ∀ (i : Instr) (s : State), ∃ t, exec i s = .next t

/-! ## The instruction rules, whole, at the step -/

/-- R121, whole. -/
def Obligations.HaltStepRule : Prop :=
  ∀ s : State, s.ready = true → s.run = .running → s.pc.toNat < 256 →
    s.mem.read s.pc.toNat = 0b00000001#8 →
      step s = .next { s with ir := 0x01#8, run := .halted
                              pc := if s.cfg.haltPcZero then 0#16 else s.pc }

/-- R131, whole. -/
def Obligations.LoadImmediateStepRule : Prop :=
  ∀ s : State, s.ready = true → s.run = .running → s.pc.toNat < 256 →
    s.mem.read s.pc.toNat = 0b10000010#8 →
      let s1 := { s with ir := 0x82#8 }
      let rb1 := s.mem.read (s.pc.toNat + 1)
      let v := s.mem.read (s.pc.toNat + 2)
      step s = .next
        (if 256 ≤ s.pc.toNat + 1 then s1.raise (.memOutOfRange (s.pc + 1#16))
         else if 256 ≤ s.pc.toNat + 2 then s1.raise (.memOutOfRange (s.pc + 2#16))
         else if h : rb1.toNat < 8 then
           { s1 with regs := s.regs.set rb1.toNat v, pc := s.pc + 3#16 }
         else s1.raise (.illegalRegister 1 rb1))

/-- R134, with the handshake of R133 completed in the same step and nothing left waiting at the port:
that is the model's reading (log entries 5 and 6). -/
def Obligations.PrintRegStepRule : Prop :=
  ∀ s : State, s.ready = true → s.run = .running → s.pc.toNat < 256 →
    s.mem.read s.pc.toNat = 0b01000111#8 →
      let s1 := { s with ir := 0x47#8 }
      let rb1 := s.mem.read (s.pc.toNat + 1)
      step s = .next
        (if 256 ≤ s.pc.toNat + 1 then s1.raise (.memOutOfRange (s.pc + 1#16))
         else if h : rb1.toNat < 8 then
           { s1 with out := s.out ++ [s.regs[rb1.toNat]], pendingOut := none, pc := s.pc + 2#16 }
         else s1.raise (.illegalRegister 1 rb1))

/-- R151, whole. -/
def Obligations.MultiplyStepRule : Prop :=
  ∀ s : State, s.ready = true → s.run = .running → s.pc.toNat < 256 →
    s.mem.read s.pc.toNat = 0b10100010#8 →
      let s1 := { s with ir := 0xA2#8 }
      let rb1 := s.mem.read (s.pc.toNat + 1)
      let rb2 := s.mem.read (s.pc.toNat + 2)
      step s = .next
        (if 256 ≤ s.pc.toNat + 1 then s1.raise (.memOutOfRange (s.pc + 1#16))
         else if 256 ≤ s.pc.toNat + 2 then s1.raise (.memOutOfRange (s.pc + 2#16))
         else if ha : rb1.toNat < 8 then
           if hb : rb2.toNat < 8 then
             { s1 with regs := s.regs.set rb1.toNat
                         (BitVec.ofNat 8 (s.regs[rb1.toNat].toNat * s.regs[rb2.toNat].toNat % 256))
                       pc := s.pc + 3#16 }
           else s1.raise (.illegalRegister 2 rb2)
         else s1.raise (.illegalRegister 1 rb1))

/-- R165, whole: the stored value is the register's after the decrement of register 7. -/
def Obligations.PushStepRule : Prop :=
  ∀ s : State, s.ready = true → s.run = .running → s.pc.toNat < 256 →
    s.mem.read s.pc.toNat = 0b01000101#8 →
      let s1 := { s with ir := 0x45#8 }
      let rb1 := s.mem.read (s.pc.toNat + 1)
      step s = .next
        (if 256 ≤ s.pc.toNat + 1 then s1.raise (.memOutOfRange (s.pc + 1#16))
         else if h : rb1.toNat < 8 then
           let sp := BitVec.ofNat 8 ((s.regs[7].toNat + 255) % 256)
           let regs := s.regs.set 7 sp
           { s1 with regs := regs, mem := s.mem.write sp.toNat regs[rb1.toNat], pc := s.pc + 2#16 }
         else s1.raise (.illegalRegister 1 rb1))

/-- R168, whole: register 7 is incremented from the value it holds after the write to `x[r]`. -/
def Obligations.PopStepRule : Prop :=
  ∀ s : State, s.ready = true → s.run = .running → s.pc.toNat < 256 →
    s.mem.read s.pc.toNat = 0b01000110#8 →
      let s1 := { s with ir := 0x46#8 }
      let rb1 := s.mem.read (s.pc.toNat + 1)
      step s = .next
        (if 256 ≤ s.pc.toNat + 1 then s1.raise (.memOutOfRange (s.pc + 1#16))
         else if h : rb1.toNat < 8 then
           let regs := s.regs.set rb1.toNat (s.mem.read s.regs[7].toNat)
           { s1 with regs := regs.set 7 (BitVec.ofNat 8 ((regs[7].toNat + 1) % 256))
                     pc := s.pc + 2#16 }
         else s1.raise (.illegalRegister 1 rb1))

/-- R104: an unknown opcode faults with its byte recorded and nothing else changed, and the byte
that memory holds after reset is one. -/
def Obligations.UnknownOpcodeStepRule : Prop :=
  (∀ s : State, s.ready = true → s.run = .running → s.pc.toNat < 256 →
    let op := s.mem.read s.pc.toNat
    op ∉ [0x01#8, 0x82#8, 0x47#8, 0xA2#8, 0x45#8, 0x46#8] →
      step s = .next { s with ir := op, run := .faulted, faultCode := 0x01#8, faultPc := s.pc
                              faultIr := op, faultInfo := op.setWidth 16 }) ∧
  ∀ a : Nat, a < 256 →
    State.reset.mem.read a ∉ [0x01#8, 0x82#8, 0x47#8, 0xA2#8, 0x45#8, 0x46#8]

/-- R103, R182: an opcode fetch at 256 or above faults, never wraps; `IR` is not written and nothing
is said of FAULT_IR (and of the model's draw counter). -/
def Obligations.OpcodeFetchOutOfRangeFaults : Prop :=
  ∀ s : State, s.ready = true → s.run = .running → 256 ≤ s.pc.toNat →
    ∃ t, step s = .next t ∧
      t = { s with run := .faulted, faultCode := 0x02#8, faultPc := s.pc, faultInfo := s.pc
                   faultIr := t.faultIr, draws := t.draws }

/-! ## Completion: each instruction's own effect, from every state -/

/-- HALT (R120, R121). -/
def Obligations.HaltCompletes : Prop :=
  ∀ s : State, exec .halt s =
    .next { s with run := .halted, pc := if s.cfg.haltPcZero then 0#16 else s.pc }

/-- LOAD_IMMEDIATE (R130). -/
def Obligations.LoadImmediateCompletes : Prop :=
  ∀ (r : Fin 8) (v : Byte) (s : State), exec (.ldi (BitVec.ofNat 8 r) v) s =
    .next { s with regs := s.regs.set r v, pc := s.pc + 3#16 }

/-- PRINT_REG (R134): the register's content joins OUT and nothing waits at the port (log entries 5
and 6). -/
def Obligations.PrintRegCompletes : Prop :=
  ∀ (r : Fin 8) (s : State), exec (.prn (BitVec.ofNat 8 r)) s =
    .next { s with out := s.out ++ [s.regs[r]], pendingOut := none, pc := s.pc + 2#16 }

/-- R144, R150: the low 8 bits of the exact product, both sources read before the write. -/
def Obligations.MultiplyCompletes : Prop :=
  (∀ x y : Byte, alu 0b10#2 x y = .ok (BitVec.ofNat 8 (x.toNat * y.toNat % 256))) ∧
  ∀ (a b : Fin 8) (s : State), exec (.mul (BitVec.ofNat 8 a) (BitVec.ofNat 8 b)) s =
    .next { s with regs := s.regs.set a (BitVec.ofNat 8 (s.regs[a].toNat * s.regs[b].toNat % 256))
                   pc := s.pc + 3#16 }

/-- PUSH (R164): decrement register 7, write the register to memory at register 7, `PC += 2`. -/
def Obligations.PushCompletes : Prop :=
  ∀ (r : Fin 8) (s : State), exec (.push (BitVec.ofNat 8 r)) s =
    let regs := s.regs.set 7 (s.regs[7] - 1#8)
    .next { s with regs := regs, mem := s.mem.write regs[7].toNat regs[r], pc := s.pc + 2#16 }

/-- POP (R167): memory at register 7 into the register, increment register 7, `PC += 2`. -/
def Obligations.PopCompletes : Prop :=
  ∀ (r : Fin 8) (s : State), exec (.pop (BitVec.ofNat 8 r)) s =
    let regs := s.regs.set r (s.mem.read s.regs[7].toNat)
    .next { s with regs := regs.set 7 (regs[7] + 1#8), pc := s.pc + 2#16 }

/-- R122: every instruction but HALT that does not fault leaves the pc just past its last byte. -/
def Obligations.SequentialControlFlow : Prop :=
  ∀ (i : Instr) (s : State), i ≠ .halt → i.wellFormed = true →
    ∃ t, exec i s = .next t ∧ t.pc = s.pc + BitVec.ofNat 16 (encode i).length ∧ t.run = s.run

/-! ## Where an instruction traps -/

/-- R105: `RegIdx(b, p)` at operand positions 1 and 2. -/
def Obligations.RegisterIndexRule : Prop :=
  ∀ (b p : Byte), p = 1#8 ∨ p = 2#8 →
    (8 ≤ b.toNat → regIdx b p = .error (.illegalRegister p b) ∧
      (FaultCause.illegalRegister p b).info.toNat = p.toNat * 0x100 + b.toNat) ∧
    (b.toNat < 8 → ∃ i : Fin 8, regIdx b p = .ok i ∧ i.val = b.toNat)

/-- R183 items 5 and 6: a register operand byte of 8 or more traps, byte 1 before byte 2. -/
def Obligations.IllegalRegisterTraps : Prop :=
  ∀ (a b : Byte) (s : State),
    (8 ≤ a.toNat →
      exec (.ldi a b) s = .next (s.raise (.illegalRegister 1 a)) ∧
      exec (.prn a) s = .next (s.raise (.illegalRegister 1 a)) ∧
      exec (.mul a b) s = .next (s.raise (.illegalRegister 1 a)) ∧
      exec (.push a) s = .next (s.raise (.illegalRegister 1 a)) ∧
      exec (.pop a) s = .next (s.raise (.illegalRegister 1 a))) ∧
    (a.toNat < 8 → 8 ≤ b.toNat →
      exec (.mul a b) s = .next (s.raise (.illegalRegister 2 b)))

/-- R182: what fault entry writes, and R181: the codes and FAULT_INFO. -/
def Obligations.FaultEntryRecord : Prop :=
  (∀ (s : State) (c : FaultCause), s.raise c =
    { s with run := .faulted, faultCode := c.code, faultPc := s.pc, faultIr := s.ir
             faultInfo := c.info }) ∧
  (∀ op : Byte, (FaultCause.unknownOpcode op).code = 0x01#8 ∧
    (FaultCause.unknownOpcode op).info = op.setWidth 16) ∧
  (∀ addr : Word, (FaultCause.memOutOfRange addr).code = 0x02#8 ∧
    (FaultCause.memOutOfRange addr).info = addr) ∧
  (∀ p b : Byte, (FaultCause.illegalRegister p b).code = 0x03#8 ∧
    (FaultCause.illegalRegister p b).info = p ++ b) ∧
  (∀ sel : BitVec 2, (FaultCause.unsupportedAluOp sel).code = 0x04#8 ∧
    (FaultCause.unsupportedAluOp sel).info = sel.setWidth 16)

/-- R183: a step raises exactly the first fault of the priority list, or none, and a reset comes
before everything: no instruction runs and no fault is recorded once it is asserted. That the one
step after the assertion ends the reset sequence is the model's reading (log entry 7). -/
def Obligations.FaultPriority : Prop :=
  (∀ s : State, s.ready = true → s.run = .running →
    ∃ t, step s = .next t ∧ RaisedExactly s t (firstFault s)) ∧
  ∀ s : State, ∃ t, step s.assertReset = .next t ∧ t.run = .idle ∧ t.faultCode = 0#8

/-- R185: a step that ends in FAULTED emitted nothing, wrote no memory and no register, and did not
advance the pc. -/
def Obligations.FaultsArePrecise : Prop :=
  ∀ s t : State, step s = .next t → t.run = .faulted →
    t.out = s.out ∧ t.pendingOut = s.pendingOut ∧ t.mem = s.mem ∧ t.regs = s.regs ∧ t.pc = s.pc

/-- R145: the fourth select raises UnsupportedAluOp, no control word selects it, and no step records
its code. -/
def Obligations.UnsupportedAluOpUnreachable : Prop :=
  (∀ a b : Byte, alu 0b11#2 a b = .error (.unsupportedAluOp 0b11#2)) ∧
  (∀ (op : Byte) (cw : ControlWord), controlWord op = some cw → cw.aluOp ≠ some 0b11#2) ∧
  ∀ s t : State, s.faultCode ≠ 0x04#8 → step s = .next t → t.faultCode ≠ 0x04#8

/-! ## Frames -/

/-- LOAD_IMMEDIATE and MULTIPLY: nothing but the destination register and the pc changes, unless a
register byte is illegal, and then only the run state and the fault record do. -/
def Obligations.RegisterWritingFrame : Prop :=
  (∀ (r v : Byte) (s t : State), exec (.ldi r v) s = .next t →
    SameRegsExcept [lowIndex r] s t ∧ SameMem s t ∧ SameOut s t ∧ SameFixed s t ∧
      (r.toNat < 8 → t.run = s.run ∧ SameFaultRecord s t)) ∧
  (∀ (a b : Byte) (s t : State), exec (.mul a b) s = .next t →
    SameRegsExcept [lowIndex a] s t ∧ SameMem s t ∧ SameOut s t ∧ SameFixed s t ∧
      (a.toNat < 8 → b.toNat < 8 → t.run = s.run ∧ SameFaultRecord s t))

/-- HALT and PRINT_REG change no register and no byte of memory; HALT emits nothing; PRINT_REG keeps
the run state and the fault record where its register byte is legal. -/
def Obligations.HaltPrintFrame : Prop :=
  (∀ s t : State, exec .halt s = .next t →
    SameRegsExcept [] s t ∧ SameMem s t ∧ SameOut s t ∧ SameFixed s t ∧ SameFaultRecord s t) ∧
  (∀ (r : Byte) (s t : State), exec (.prn r) s = .next t →
    SameRegsExcept [] s t ∧ SameMem s t ∧ SameFixed s t ∧
      (r.toNat < 8 → t.run = s.run ∧ SameFaultRecord s t) ∧ (8 ≤ r.toNat → SameOut s t))

/-- PUSH changes register 7, the byte at the decremented stack pointer and the pc, nothing else. -/
def Obligations.PushFrame : Prop :=
  ∀ (r : Byte) (s t : State), exec (.push r) s = .next t →
    SameRegsExcept [7] s t ∧ SameOut s t ∧ SameFixed s t ∧
      (∀ a b : Nat, pushAddr s = a → b ≠ a → t.mem.read b = s.mem.read b) ∧
      (r.toNat < 8 → t.run = s.run ∧ SameFaultRecord s t)

/-- POP changes its destination, register 7 and the pc, nothing else: the popped cell keeps its
value. -/
def Obligations.PopFrame : Prop :=
  ∀ (r : Byte) (s t : State), exec (.pop r) s = .next t →
    SameRegsExcept [lowIndex r, 7] s t ∧ SameMem s t ∧ SameOut s t ∧ SameFixed s t ∧
      (r.toNat < 8 → t.run = s.run ∧ SameFaultRecord s t)

/-! ## ALU -/

/-- R141: the ALU function, exact on integers before the reduction. -/
def Obligations.AluFunction : Prop :=
  ∀ a b : Byte,
    alu 0b00#2 a b = .ok (BitVec.ofInt 8 (((a.toNat : Int) + b.toNat) % 256)) ∧
    alu 0b01#2 a b = .ok (BitVec.ofInt 8 (((a.toNat : Int) - b.toNat + 256) % 256)) ∧
    alu 0b10#2 a b = .ok (BitVec.ofInt 8 (((a.toNat : Int) * b.toNat) % 256)) ∧
    alu 0b11#2 a b = .error (.unsupportedAluOp 0b11#2)

/-- R147: read as two's-complement bytes, the results are the sum, difference and product of the
signed inputs modulo 256. -/
def Obligations.AluSignedReading : Prop :=
  ∀ a b y : Byte,
    (alu 0b00#2 a b = .ok y → (y.toInt - (a.toInt + b.toInt)) % 256 = 0) ∧
    (alu 0b01#2 a b = .ok y → (y.toInt - (a.toInt - b.toInt)) % 256 = 0) ∧
    (alu 0b10#2 a b = .ok y → (y.toInt - a.toInt * b.toInt) % 256 = 0)

/-! ## Sequences of instructions -/

/-- R132: LOAD_IMMEDIATE then PRINT_REG of the same register emits exactly the immediate. -/
def Obligations.LoadThenPrintEmits : Prop :=
  ∀ (r : Fin 8) (v : Byte) (s : State), ∃ t u,
    exec (.ldi (BitVec.ofNat 8 r) v) s = .next t ∧ exec (.prn (BitVec.ofNat 8 r)) t = .next u ∧
      u.out = s.out ++ [v]

/-- R169: PUSH then POP is balanced exactly where neither names register 7. -/
def Obligations.PushPopBalanced : Prop :=
  ∀ (r q : Fin 8) (s : State), ∃ t u,
    exec (.push (BitVec.ofNat 8 r)) s = .next t ∧ exec (.pop (BitVec.ofNat 8 q)) t = .next u ∧
      ((r ≠ 7 ∧ q ≠ 7) → Balanced s u r q) ∧ ((r = 7 ∨ q = 7) → ¬ Balanced s u r q)

/-- R68: after a PUSH every fetch reads the memory as the PUSH left it. -/
def Obligations.PushIsSeenByFetch : Prop :=
  ∀ (r : Byte) (s t : State) (addr : Word), r.toNat < 8 → exec (.push r) s = .next t →
    addr.toNat < 256 →
      t.fetch addr =
        .ok (if addr.toNat = (s.sp - 1#8).toNat then t.getReg (lowIndex r) else s.mem.read addr.toNat)

/-! ## Decoder -/

/-- R94 and R86: words written out bit by bit from the encoding tables. -/
def Obligations.DecodeWorkedWords : Prop :=
  decode [0b10000010#8, 0b00000000#8, 0b00001000#8] = .ok (.ldi 0#8 8#8, []) ∧
  decode [0b01000111#8, 0b00000000#8] = .ok (.prn 0#8, []) ∧
  decode [0b00000001#8] = .ok (.halt, []) ∧
  decode [0b10100010#8, 0b00000010#8, 0b00000101#8] = .ok (.mul 2#8 5#8, []) ∧
  decode [0b01000101#8, 0b00000110#8] = .ok (.push 6#8, []) ∧
  decode [0b01000110#8, 0b00000001#8] = .ok (.pop 1#8, [])

/-- Decode and encode agree: whatever bytes follow, the decoder reads back every instruction, every
operand at every value. -/
def Obligations.DecodeEncodeAgree : Prop :=
  ∀ (i : Instr) (rest : List Byte), decode (encode i ++ rest) = .ok (i, rest)

/-- And the decoder accepts nothing but encodings: no bit of an accepted instruction is dropped. -/
def Obligations.EncodeDecodeAgree : Prop :=
  ∀ (bytes rest : List Byte) (i : Instr), decode bytes = .ok (i, rest) → bytes = encode i ++ rest

/-- R88: the other 250 opcode bytes are illegal, whatever follows them. -/
def Obligations.IllegalOpcodesRefused : Prop :=
  (∀ (op : Byte) (rest : List Byte), op ∉ [0x01#8, 0x82#8, 0x47#8, 0xA2#8, 0x45#8, 0x46#8] →
    decode (op :: rest) = .error (.unknownOpcode op)) ∧
  ((List.range 256).filter (fun n => (controlWord (BitVec.ofNat 8 n)).isNone)).length = 250

/-- R87: the units, steered by the control word of the opcode, do to every state what the
instruction's meaning does. -/
def Obligations.DatapathImplementsInstructions : Prop :=
  ∀ (i : Instr) (s : State), ∃ cw, controlWord i.opcode = some cw ∧
    exec i s = .next (datapath cw ((encode i).getD 1 0) ((encode i).getD 2 0) s)

/-! ## Whole-machine rules -/

/-- R27: with `ready = 1` a step changes the run state only from RUNNING, by HALT to HALTED or by a
fault to FAULTED; of the host's actions only a start changes it at once, from IDLE or HALTED to
RUNNING. R27 and R195 let a reset change it too: that the assertion of reset keeps it, and the step
that ends the sequence writes IDLE, is the model's reading (log entry 7). -/
def Obligations.RunStateTransitions : Prop :=
  (∀ s t : State, s.ready = true → step s = .next t → t.run ≠ s.run →
    s.run = .running ∧
      ((t.run = .halted ∧ s.mem.read s.pc.toNat = 0x01#8) ∨ (t.run = .faulted ∧ t.faultCode ≠ 0#8))) ∧
  (∀ (s : State) (a : HostAction), (a.apply s).run ≠ s.run →
    a = .start ∧ (s.run = .idle ∨ s.run = .halted) ∧ (a.apply s).run = .running)

/-- R120: HALT alone stops the run loop without a fault, and the pc is not advanced past it. -/
def Obligations.OnlyHaltHalts : Prop :=
  ∀ (i : Instr) (s t : State), exec i s = .next t → s.run ≠ .halted → t.run = .halted →
    i = .halt ∧ t.pc = (if s.cfg.haltPcZero then 0#16 else s.pc)

/-- R29: with `ready = 1`, `OUT` grows by at most one value a step, the content of a register, and
only where the opcode at the pc is PRINT_REG's. -/
def Obligations.OutputOnlyByPrintReg : Prop :=
  ∀ s t : State, s.ready = true → step s = .next t →
    t.out = s.out ∨
      (s.run = .running ∧ s.mem.read s.pc.toNat = 0x47#8 ∧ ∃ r : Fin 8, t.out = s.out ++ [s.getReg r])

/-- R26, R28: no step lets `IR`, the fault record, `OUT` or the draw counter reach the rest of the
state: two states alike but for these step to states alike but for these. -/
def Obligations.RecordInvisibleToPrograms : Prop :=
  ∀ s s' t t' : State, s.programView = s'.programView → step s = .next t → step s' = .next t' →
    t.programView = t'.programView

/-- The invariant holds after reset, under every configuration. -/
def Obligations.ResetMeetsInvariant : Prop :=
  State.reset.Inv ∧ ∀ (c : Config.Params) (d : Nat), (State.resetWith c d).Inv

/-- Every step keeps the invariant. -/
def Obligations.StepKeepsInvariant : Prop :=
  ∀ s t : State, s.Inv → step s = .next t → t.Inv

/-- Every host action keeps the invariant; the assertion of reset because the fields keep their values
until the step that ends the sequence (the model's reading, log entry 7). -/
def Obligations.HostActionKeepsInvariant : Prop :=
  ∀ (s : State) (a : HostAction), s.Inv → (a.apply s).Inv

/-- R212: every run ends, from every RUNNING state, within `ceil((256 - pc) / 2) + 1` steps. That the
host takes every value is the duty the model assumes (log entry 5); that the steps left over after a
run has ended change nothing is the model's reading (log entry 8). -/
def Obligations.EveryRunEnds : Prop :=
  ∀ s : State, s.ready = true → s.run = .running →
    ∃ t, Host.Core.run core (runBound s.pc.toNat) s = .next t ∧ t.Stopped

/-! ## Reset and host interface -/

/-- R36: the value of every piece of state after reset (of `IR` the rule gives none, and nothing is
said), and R6: the default configuration. -/
def Obligations.ResetState : Prop :=
  (∀ (c : Config.Params) (d : Nat), let s := State.resetWith c d
    (∀ a : Nat, a < 256 → s.mem.read a = 0#8) ∧ (∀ i : Fin 8, i.val < 7 → s.getReg i = 0#8) ∧
    s.getReg 7 = c.spReset ∧ s.pc = 0#16 ∧ s.run = .idle ∧ s.faultCode = 0#8 ∧ s.faultPc = 0#16 ∧
    s.faultInfo = 0#16 ∧ s.faultIr = 0#8 ∧ s.out = [] ∧ s.pendingOut = none ∧ s.ready = true ∧
    s.cfg = c) ∧
  (∃ d, State.reset = State.resetWith ⟨0xF4#8, true⟩ d)

/-- R200, R201: reset in any state, RUNNING and FAULTED included, ends in the reset state; while the
sequence lasts a start and a loader write are ignored. That the sequence is one step is the model's
reading (log entry 7). -/
def Obligations.ResetFromAnyState : Prop :=
  ∀ s : State, (∃ d, step s.assertReset = .next (State.resetWith s.cfg d)) ∧
    s.assertReset.start = s.assertReset ∧
    ∀ addr data : Byte, s.assertReset.loaderWrite addr data = s.assertReset

/-- R110: a start in IDLE or HALTED sets `run <- RUNNING` and changes nothing else; the next step
fetches at the pc as it stands; elsewhere it is ignored. -/
def Obligations.StartRule : Prop :=
  ∀ s : State, s.ready = true →
    ((s.run = .idle ∨ s.run = .halted) →
      s.start = { s with run := .running } ∧ step s.start = runStep { s with run := .running }) ∧
    ((s.run = .running ∨ s.run = .faulted) → s.start = s)

/-- R184: FAULTED is left only by reset: no step and no other host action leaves it (that the step
answers the same state is log entry 8). -/
def Obligations.FaultedLeftOnlyByReset : Prop :=
  ∀ s : State, s.ready = true → s.run = .faulted →
    step s = .next s ∧ ∀ a : HostAction, a ≠ .reset → (a.apply s).run = .faulted ∧ (a.apply s).ready = true

/-- R210: the host has no way to change registers, the pc or the fault record but reset, and no way
to write memory while RUNNING; R186: no host-side error changes `run` or the fault record. Of reset
this says what its ASSERTION leaves: that registers, pc, record and run keep their values until the
step that ends the sequence is the model's choice (log entries 7 and 19). -/
def Obligations.HostActionFrame : Prop :=
  ∀ (s : State) (a : HostAction),
    (a.apply s).regs = s.regs ∧ (a.apply s).pc = s.pc ∧ (a.apply s).ir = s.ir ∧
    (a.apply s).out = s.out ∧ (a.apply s).cfg = s.cfg ∧ SameFaultRecord s (a.apply s) ∧
    (s.run = .running → (a.apply s).mem = s.mem) ∧ (a ≠ .start → (a.apply s).run = s.run)

/-- R62: `load` of at most 256 bytes writes each value masked to 8 bits from address 0 up and leaves
the other addresses and the rest of the state; a longer one fails and the host may not start until a
reset and a successful load (log entries 3 and 17). A load is failed or successful by its length
alone (log entry 21). -/
def Obligations.LoadRule : Prop :=
  ∀ (s : State) (bytes : List Nat), s.ready = true → s.run ≠ .running →
    (bytes.length ≤ 256 → ∃ t, s.load bytes = .loaded t ∧ t = { s with mem := t.mem } ∧
      ∀ a : Nat, t.mem.read a = (match bytes[a]? with
        | some b => BitVec.ofNat 8 (b % 256)
        | none => s.mem.read a)) ∧
    (256 < bytes.length → ∃ t, s.load bytes = .tooLong t ∧
      t = { s with mem := t.mem, draws := t.draws } ∧
      ∀ l : LoadStatus, (Session.act ⟨s, l⟩ (.load bytes)).loads = .failed) ∧
    (∀ l : LoadStatus, l ≠ .clean → (Session.mk s l).allowed .start = false) ∧
    (∀ a : HostAction, a ≠ .reset → LoadStatus.failed.after a = .failed) ∧
    (LoadStatus.failed.after .reset = .awaitingLoad) ∧
    (∀ a : HostAction, LoadStatus.awaitingLoad.after a = .clean →
      ∃ b : List Nat, a = .load b ∧ b.length ≤ 256)

/-- R63, R64: comments, surrounding whitespace and blank lines do not matter: a file loads the bytes
of the same file with them stripped. -/
def Obligations.ProgramFileCommentsIgnored : Prop :=
  ∀ lines : List (List Char), (∀ l ∈ lines, '\n' ∉ l) →
    parseProgramFile (List.intercalate ['\n'] lines) =
      parseProgramFile (List.intercalate ['\n']
        ((lines.map (fun l => trimBlanks (stripComment l))).filter (fun l => l ≠ [])))

/-- R63, every line, with and without a comment after its text: binary digits between whitespace give
their base-2 value modulo 256. A text with another character, digits with whitespace inside them, and
a blank or comment-only line give nothing. -/
def Obligations.ProgramFileLineRule : Prop :=
  ∀ (pre t post comment : List Char), (∀ c ∈ pre ++ post, c = ' ' ∨ c = '\t' ∨ c = '\r') →
    ((t ≠ [] ∧ ∀ c ∈ t, c = '0' ∨ c = '1') →
      lineValue (pre ++ t ++ post) = some (binaryValue t % 256) ∧
      lineValue (pre ++ t ++ post ++ '#' :: comment) = some (binaryValue t % 256)) ∧
    (∀ c ∈ t, c ∉ ['0', '1', '#', ' ', '\t', '\r'] → '#' ∉ t →
      lineValue (pre ++ t ++ post) = none ∧
      lineValue (pre ++ t ++ post ++ '#' :: comment) = none) ∧
    (∀ (a b : Char) (mid : List Char), t = a :: (mid ++ [b]) →
      (a = '0' ∨ a = '1') → (b = '0' ∨ b = '1') →
      (∃ c ∈ mid, c = ' ' ∨ c = '\t' ∨ c = '\r') → '#' ∉ t →
        lineValue (pre ++ t ++ post) = none ∧
        lineValue (pre ++ t ++ post ++ '#' :: comment) = none) ∧
    (t = [] →
      lineValue (pre ++ t ++ post) = none ∧
      lineValue (pre ++ t ++ post ++ '#' :: comment) = none)

/-- R133: a driven value is held, and nothing joins `OUT`, through any number of cycles without
`out_ready`; the cycle with it completes `Emit`. -/
def Obligations.OutputHandshake : Prop :=
  ∀ (s : State) (v : Byte) (n : Nat),
    ((fun t : State => t.outputCycle false)^[n] (s.driveOutput v)) = { s with pendingOut := some v } ∧
    (((fun t : State => t.outputCycle false)^[n] (s.driveOutput v)).outputCycle true) = s.emit v ∧
    s.emit v = { s with out := s.out ++ [v], pendingOut := none }

/-- R27, R35: the `state` port is encoded as R27 says in every state (the run state it encodes while
`ready = 0` is the model's choice, log entry 19). R69, R194: outside RUNNING the debug ports show
memory, registers, pc and `IR`, and the trace the pc, the three bytes from it on, absent from address
256 on, and the registers. -/
def Obligations.HostObservation : Prop :=
  ∀ s : State,
    s.statusPorts.state = (match s.run with
      | .idle => 0b00#2 | .running => 0b01#2 | .halted => 0b10#2 | .faulted => 0b11#2) ∧
    (s.ready = true → s.run ≠ .running →
      (∀ addr : Byte, s.dbgMem addr = some (s.mem.read addr.toNat)) ∧
      (∀ sel : Fin 8, s.dbgReg sel = some s.regs[sel]) ∧ s.dbgPc = some s.pc ∧ s.dbgIr = some s.ir ∧
      ∃ d, s.traceData = some d ∧ d.pc = s.pc ∧ d.regs = s.regs ∧
        d.bytes = [0, 1, 2].map (fun k => if s.pc.toNat + k < 256
          then some (s.mem.read (s.pc.toNat + k)) else none))

/-- R91, R92: the assembler reads back the line written for every well-formed instruction (where the
syntax is open, log entry 14). -/
def Obligations.AssemblyRoundTrip : Prop :=
  ∀ i : Instr, i.wellFormed = true →
    ∃ line, asmText i = some line ∧ parseInstr line = some i ∧ assembleLine line = some (encode i)
end

