-- ==== Sys2Proof/Laws/Memory.lean ====
section
/-! SUPPORT. What the memory operations do: a write is read back and leaves every other address
alone, in every list, and the canonical form is kept. -/

namespace Sys2Proof.Machine

theorem Memory.read_erase (m : Memory) (a b : Nat) :
    Memory.read (Memory.erase m a) b = if b = a then memDefault else Memory.read m b := by
  induction m with
  | nil => simp [Memory.erase, Memory.read]
  | cons c m ih =>
    obtain ⟨k, v⟩ := c
    by_cases hk : k = a
    · simp only [Memory.erase] at ih
      simp only [Memory.erase, List.filter, Memory.read, hk]
      simp only [ne_eq, not_true_eq_false, decide_false, ih]
      split <;> grind
    · simp only [Memory.erase] at ih
      simp only [Memory.erase, List.filter, hk, ne_eq, not_false_eq_true, decide_true, Memory.read, ih]
      grind

theorem Memory.read_insert (m : Memory) (a b : Nat) (v : Byte) (h : ∀ c ∈ m, c.1 ≠ a) :
    Memory.read (Memory.insert a v m) b = if b = a then v else Memory.read m b := by
  induction m with
  | nil => simp [Memory.insert, Memory.read, eq_comm]
  | cons c m ih =>
    obtain ⟨k, w⟩ := c
    have hk : k ≠ a := h (k, w) (by simp)
    have ih := ih (fun c hc => h c (by simp [hc]))
    simp only [Memory.insert]
    split <;> simp only [Memory.read, ih] <;> grind

theorem Memory.mem_erase {m : Memory} {a : Nat} {c : Host.Cell} :
    c ∈ Memory.erase m a ↔ c ∈ m ∧ c.1 ≠ a := by
  simp [Memory.erase]

/-- Read after write, at every address. -/
theorem Memory.read_write (m : Memory) (a b : Nat) (v : Byte) :
    Memory.read (Memory.write m a v) b = if b = a then v else Memory.read m b := by
  unfold Memory.write
  split
  · simp_all [Memory.read_erase]
  · rw [Memory.read_insert _ _ _ _ (fun c hc => (Memory.mem_erase.1 hc).2), Memory.read_erase]
    split <;> rfl

@[simp] theorem Memory.read_write_same (m : Memory) (a : Nat) (v : Byte) :
    Memory.read (Memory.write m a v) a = v := by
  simp [Memory.read_write]

@[simp] theorem Memory.read_write_ne (m : Memory) {a b : Nat} (v : Byte) (h : b ≠ a) :
    Memory.read (Memory.write m a v) b = Memory.read m b := by
  simp [Memory.read_write, h]

@[simp] theorem Memory.read_nil (a : Nat) : Memory.read [] a = memDefault := rfl

/-! ### The canonical form -/

theorem Memory.wf_iff (m : Memory) :
    m.wf = true ↔ m.Pairwise (fun c d => c.1 < d.1) ∧ ∀ c ∈ m, c.1 < memSize ∧ c.2 ≠ memDefault := by
  simp [Memory.wf]

theorem Memory.mem_insert {m : Memory} {a : Nat} {v : Byte} {c : Host.Cell} :
    c ∈ Memory.insert a v m ↔ c = (a, v) ∨ c ∈ m := by
  induction m with
  | nil => simp [Memory.insert]
  | cons d m ih =>
    simp only [Memory.insert]
    split <;> simp [ih]
    tauto

theorem Memory.pairwise_insert {m : Memory} {a : Nat} {v : Byte}
    (hm : m.Pairwise (fun c d => c.1 < d.1)) (ha : ∀ c ∈ m, c.1 ≠ a) :
    (Memory.insert a v m).Pairwise (fun c d => c.1 < d.1) := by
  induction m with
  | nil => simp [Memory.insert]
  | cons d m ih =>
    obtain ⟨hd, hm'⟩ := List.pairwise_cons.1 hm
    have hda : d.1 ≠ a := ha d (by simp)
    simp only [Memory.insert]
    split
    · next hlt =>
      refine List.pairwise_cons.2 ⟨fun c hc => ?_, hm⟩
      rcases List.mem_cons.1 hc with rfl | hc
      · exact hlt
      · exact lt_trans hlt (hd c hc)
    · next hge =>
      refine List.pairwise_cons.2 ⟨fun c hc => ?_, ih hm' (fun c hc => ha c (by simp [hc]))⟩
      rcases Memory.mem_insert.1 hc with rfl | hc
      · show d.1 < a
        omega
      · exact hd c hc

/-- A write in range keeps the canonical form. -/
theorem Memory.wf_write {m : Memory} (hm : m.wf = true) {a : Nat} (ha : a < memSize) (v : Byte) :
    (Memory.write m a v).wf = true := by
  obtain ⟨hp, hall⟩ := (Memory.wf_iff m).1 hm
  have hpe : (Memory.erase m a).Pairwise (fun c d => c.1 < d.1) := hp.filter _
  unfold Memory.write
  split
  · exact (Memory.wf_iff _).2 ⟨hpe, fun c hc => hall c (Memory.mem_erase.1 hc).1⟩
  · next hv =>
    refine (Memory.wf_iff _).2
      ⟨Memory.pairwise_insert hpe (fun c hc => (Memory.mem_erase.1 hc).2), fun c hc => ?_⟩
    rcases Memory.mem_insert.1 hc with rfl | hc
    · exact ⟨ha, hv⟩
    · exact hall c (Memory.mem_erase.1 hc).1

@[simp] theorem Memory.wf_nil : Memory.wf [] = true := rfl

/-- Storing bytes keeps the canonical form. -/
theorem storeBytes_wf (bs : List Byte) : ∀ (m : Memory) (a : Nat), m.wf = true →
    (storeBytes m a bs).wf = true := by
  induction bs with
  | nil => intro m a h; exact h
  | cons b bs ih =>
    intro m a h
    refine ih _ _ ?_
    split
    · exact Memory.wf_write h (by assumption) b
    · exact h

/-- Two memories in canonical form that read alike are the same list. -/
theorem Memory.ext_of_read {m n : Memory} (hm : m.wf = true) (hn : n.wf = true)
    (h : ∀ a, Memory.read m a = Memory.read n a) : m = n := by
  have read_lt : ∀ (l : Memory) (a : Nat), (∀ c ∈ l, a < c.1) → Memory.read l a = memDefault := by
    intro l a
    induction l with
    | nil => intro _; rfl
    | cons c l ih =>
      intro hc
      have h1 := hc c (by simp)
      simp only [Memory.read]
      rw [if_neg (by omega)]
      exact ih (fun d hd => hc d (by simp [hd]))
  induction m generalizing n with
  | nil =>
    cases n with
    | nil => rfl
    | cons d n =>
      have hd := ((Memory.wf_iff _).1 hn).2 d (by simp)
      have := h d.1
      simp [Memory.read] at this
      exact absurd this.symm hd.2
  | cons c m ih =>
    obtain ⟨hpm, ham⟩ := (Memory.wf_iff _).1 hm
    obtain ⟨hcm, hpm'⟩ := List.pairwise_cons.1 hpm
    cases n with
    | nil =>
      have := h c.1
      simp [Memory.read] at this
      exact absurd this (ham c (by simp)).2
    | cons d n =>
      obtain ⟨hpn, han⟩ := (Memory.wf_iff _).1 hn
      obtain ⟨hdn, hpn'⟩ := List.pairwise_cons.1 hpn
      have hk : c.1 = d.1 := by
        rcases lt_trichotomy c.1 d.1 with hlt | heq | hgt
        · have h1 := h c.1
          rw [read_lt (d :: n) c.1 (by
            intro e he
            rcases List.mem_cons.1 he with rfl | he
            · exact hlt
            · exact lt_trans hlt (hdn e he))] at h1
          simp [Memory.read] at h1
          exact absurd h1 (ham c (by simp)).2
        · exact heq
        · have h1 := h d.1
          rw [read_lt (c :: m) d.1 (by
            intro e he
            rcases List.mem_cons.1 he with rfl | he
            · exact hgt
            · exact lt_trans hgt (hcm e he))] at h1
          simp [Memory.read] at h1
          exact absurd h1.symm (han d (by simp)).2
      have hv : c.2 = d.2 := by
        have h1 := h c.1
        simpa [Memory.read, hk] using h1
      have hcd : c = d := Prod.ext hk hv
      subst hcd
      congr 1
      refine ih ((Memory.wf_iff _).2 ⟨hpm', fun e he => ham e (by simp [he])⟩)
        ((Memory.wf_iff _).2 ⟨hpn', fun e he => han e (by simp [he])⟩) (fun a => ?_)
      have h1 := h a
      by_cases hac : c.1 = a
      · rw [read_lt m a (fun e he => hac ▸ hcm e he), read_lt n a (fun e he => hac ▸ hdn e he)]
      · simpa [Memory.read, hac] using h1

end Sys2Proof.Machine
end

