-- ==== Sys2Proof/Laws/State.lean ====
section
/-! SUPPORT. One lemma per field per update of State, so that no proof unfolds a record update. -/

namespace Sys2Proof.Machine

/-! ### setReg -/

@[simp] theorem State.setReg_regs (s : State) (i : Fin 8) (v : Byte) : (s.setReg i v).regs = s.regs.set i v := rfl
@[simp] theorem State.setReg_pc (s : State) (i : Fin 8) (v : Byte) : (s.setReg i v).pc = s.pc := rfl
@[simp] theorem State.setReg_ir (s : State) (i : Fin 8) (v : Byte) : (s.setReg i v).ir = s.ir := rfl
@[simp] theorem State.setReg_mem (s : State) (i : Fin 8) (v : Byte) : (s.setReg i v).mem = s.mem := rfl
@[simp] theorem State.setReg_run (s : State) (i : Fin 8) (v : Byte) : (s.setReg i v).run = s.run := rfl
@[simp] theorem State.setReg_faultCode (s : State) (i : Fin 8) (v : Byte) : (s.setReg i v).faultCode = s.faultCode := rfl
@[simp] theorem State.setReg_faultPc (s : State) (i : Fin 8) (v : Byte) : (s.setReg i v).faultPc = s.faultPc := rfl
@[simp] theorem State.setReg_faultIr (s : State) (i : Fin 8) (v : Byte) : (s.setReg i v).faultIr = s.faultIr := rfl
@[simp] theorem State.setReg_faultInfo (s : State) (i : Fin 8) (v : Byte) : (s.setReg i v).faultInfo = s.faultInfo := rfl
@[simp] theorem State.setReg_out (s : State) (i : Fin 8) (v : Byte) : (s.setReg i v).out = s.out := rfl
@[simp] theorem State.setReg_pendingOut (s : State) (i : Fin 8) (v : Byte) : (s.setReg i v).pendingOut = s.pendingOut := rfl
@[simp] theorem State.setReg_ready (s : State) (i : Fin 8) (v : Byte) : (s.setReg i v).ready = s.ready := rfl
@[simp] theorem State.setReg_cfg (s : State) (i : Fin 8) (v : Byte) : (s.setReg i v).cfg = s.cfg := rfl
@[simp] theorem State.setReg_draws (s : State) (i : Fin 8) (v : Byte) : (s.setReg i v).draws = s.draws := rfl

/-! ### setPc -/

@[simp] theorem State.setPc_regs (s : State) (target : Word) : (s.setPc target).regs = s.regs := rfl
@[simp] theorem State.setPc_pc (s : State) (target : Word) : (s.setPc target).pc = target := rfl
@[simp] theorem State.setPc_ir (s : State) (target : Word) : (s.setPc target).ir = s.ir := rfl
@[simp] theorem State.setPc_mem (s : State) (target : Word) : (s.setPc target).mem = s.mem := rfl
@[simp] theorem State.setPc_run (s : State) (target : Word) : (s.setPc target).run = s.run := rfl
@[simp] theorem State.setPc_faultCode (s : State) (target : Word) : (s.setPc target).faultCode = s.faultCode := rfl
@[simp] theorem State.setPc_faultPc (s : State) (target : Word) : (s.setPc target).faultPc = s.faultPc := rfl
@[simp] theorem State.setPc_faultIr (s : State) (target : Word) : (s.setPc target).faultIr = s.faultIr := rfl
@[simp] theorem State.setPc_faultInfo (s : State) (target : Word) : (s.setPc target).faultInfo = s.faultInfo := rfl
@[simp] theorem State.setPc_out (s : State) (target : Word) : (s.setPc target).out = s.out := rfl
@[simp] theorem State.setPc_pendingOut (s : State) (target : Word) : (s.setPc target).pendingOut = s.pendingOut := rfl
@[simp] theorem State.setPc_ready (s : State) (target : Word) : (s.setPc target).ready = s.ready := rfl
@[simp] theorem State.setPc_cfg (s : State) (target : Word) : (s.setPc target).cfg = s.cfg := rfl
@[simp] theorem State.setPc_draws (s : State) (target : Word) : (s.setPc target).draws = s.draws := rfl

/-! ### advancePc -/

@[simp] theorem State.advancePc_regs (s : State) (len : Nat) : (s.advancePc len).regs = s.regs := rfl
@[simp] theorem State.advancePc_pc (s : State) (len : Nat) : (s.advancePc len).pc = pcPlus s.pc len := rfl
@[simp] theorem State.advancePc_ir (s : State) (len : Nat) : (s.advancePc len).ir = s.ir := rfl
@[simp] theorem State.advancePc_mem (s : State) (len : Nat) : (s.advancePc len).mem = s.mem := rfl
@[simp] theorem State.advancePc_run (s : State) (len : Nat) : (s.advancePc len).run = s.run := rfl
@[simp] theorem State.advancePc_faultCode (s : State) (len : Nat) : (s.advancePc len).faultCode = s.faultCode := rfl
@[simp] theorem State.advancePc_faultPc (s : State) (len : Nat) : (s.advancePc len).faultPc = s.faultPc := rfl
@[simp] theorem State.advancePc_faultIr (s : State) (len : Nat) : (s.advancePc len).faultIr = s.faultIr := rfl
@[simp] theorem State.advancePc_faultInfo (s : State) (len : Nat) : (s.advancePc len).faultInfo = s.faultInfo := rfl
@[simp] theorem State.advancePc_out (s : State) (len : Nat) : (s.advancePc len).out = s.out := rfl
@[simp] theorem State.advancePc_pendingOut (s : State) (len : Nat) : (s.advancePc len).pendingOut = s.pendingOut := rfl
@[simp] theorem State.advancePc_ready (s : State) (len : Nat) : (s.advancePc len).ready = s.ready := rfl
@[simp] theorem State.advancePc_cfg (s : State) (len : Nat) : (s.advancePc len).cfg = s.cfg := rfl
@[simp] theorem State.advancePc_draws (s : State) (len : Nat) : (s.advancePc len).draws = s.draws := rfl

/-! ### setIr -/

@[simp] theorem State.setIr_regs (s : State) (op : Byte) : (s.setIr op).regs = s.regs := rfl
@[simp] theorem State.setIr_pc (s : State) (op : Byte) : (s.setIr op).pc = s.pc := rfl
@[simp] theorem State.setIr_ir (s : State) (op : Byte) : (s.setIr op).ir = op := rfl
@[simp] theorem State.setIr_mem (s : State) (op : Byte) : (s.setIr op).mem = s.mem := rfl
@[simp] theorem State.setIr_run (s : State) (op : Byte) : (s.setIr op).run = s.run := rfl
@[simp] theorem State.setIr_faultCode (s : State) (op : Byte) : (s.setIr op).faultCode = s.faultCode := rfl
@[simp] theorem State.setIr_faultPc (s : State) (op : Byte) : (s.setIr op).faultPc = s.faultPc := rfl
@[simp] theorem State.setIr_faultIr (s : State) (op : Byte) : (s.setIr op).faultIr = s.faultIr := rfl
@[simp] theorem State.setIr_faultInfo (s : State) (op : Byte) : (s.setIr op).faultInfo = s.faultInfo := rfl
@[simp] theorem State.setIr_out (s : State) (op : Byte) : (s.setIr op).out = s.out := rfl
@[simp] theorem State.setIr_pendingOut (s : State) (op : Byte) : (s.setIr op).pendingOut = s.pendingOut := rfl
@[simp] theorem State.setIr_ready (s : State) (op : Byte) : (s.setIr op).ready = s.ready := rfl
@[simp] theorem State.setIr_cfg (s : State) (op : Byte) : (s.setIr op).cfg = s.cfg := rfl
@[simp] theorem State.setIr_draws (s : State) (op : Byte) : (s.setIr op).draws = s.draws := rfl

/-! ### setRun -/

@[simp] theorem State.setRun_regs (s : State) (r : RunState) : (s.setRun r).regs = s.regs := rfl
@[simp] theorem State.setRun_pc (s : State) (r : RunState) : (s.setRun r).pc = s.pc := rfl
@[simp] theorem State.setRun_ir (s : State) (r : RunState) : (s.setRun r).ir = s.ir := rfl
@[simp] theorem State.setRun_mem (s : State) (r : RunState) : (s.setRun r).mem = s.mem := rfl
@[simp] theorem State.setRun_run (s : State) (r : RunState) : (s.setRun r).run = r := rfl
@[simp] theorem State.setRun_faultCode (s : State) (r : RunState) : (s.setRun r).faultCode = s.faultCode := rfl
@[simp] theorem State.setRun_faultPc (s : State) (r : RunState) : (s.setRun r).faultPc = s.faultPc := rfl
@[simp] theorem State.setRun_faultIr (s : State) (r : RunState) : (s.setRun r).faultIr = s.faultIr := rfl
@[simp] theorem State.setRun_faultInfo (s : State) (r : RunState) : (s.setRun r).faultInfo = s.faultInfo := rfl
@[simp] theorem State.setRun_out (s : State) (r : RunState) : (s.setRun r).out = s.out := rfl
@[simp] theorem State.setRun_pendingOut (s : State) (r : RunState) : (s.setRun r).pendingOut = s.pendingOut := rfl
@[simp] theorem State.setRun_ready (s : State) (r : RunState) : (s.setRun r).ready = s.ready := rfl
@[simp] theorem State.setRun_cfg (s : State) (r : RunState) : (s.setRun r).cfg = s.cfg := rfl
@[simp] theorem State.setRun_draws (s : State) (r : RunState) : (s.setRun r).draws = s.draws := rfl

/-! ### setMem -/

@[simp] theorem State.setMem_regs (s : State) (m : Memory) : (s.setMem m).regs = s.regs := rfl
@[simp] theorem State.setMem_pc (s : State) (m : Memory) : (s.setMem m).pc = s.pc := rfl
@[simp] theorem State.setMem_ir (s : State) (m : Memory) : (s.setMem m).ir = s.ir := rfl
@[simp] theorem State.setMem_mem (s : State) (m : Memory) : (s.setMem m).mem = m := rfl
@[simp] theorem State.setMem_run (s : State) (m : Memory) : (s.setMem m).run = s.run := rfl
@[simp] theorem State.setMem_faultCode (s : State) (m : Memory) : (s.setMem m).faultCode = s.faultCode := rfl
@[simp] theorem State.setMem_faultPc (s : State) (m : Memory) : (s.setMem m).faultPc = s.faultPc := rfl
@[simp] theorem State.setMem_faultIr (s : State) (m : Memory) : (s.setMem m).faultIr = s.faultIr := rfl
@[simp] theorem State.setMem_faultInfo (s : State) (m : Memory) : (s.setMem m).faultInfo = s.faultInfo := rfl
@[simp] theorem State.setMem_out (s : State) (m : Memory) : (s.setMem m).out = s.out := rfl
@[simp] theorem State.setMem_pendingOut (s : State) (m : Memory) : (s.setMem m).pendingOut = s.pendingOut := rfl
@[simp] theorem State.setMem_ready (s : State) (m : Memory) : (s.setMem m).ready = s.ready := rfl
@[simp] theorem State.setMem_cfg (s : State) (m : Memory) : (s.setMem m).cfg = s.cfg := rfl
@[simp] theorem State.setMem_draws (s : State) (m : Memory) : (s.setMem m).draws = s.draws := rfl

/-! ### driveOutput -/

@[simp] theorem State.driveOutput_regs (s : State) (v : Byte) : (s.driveOutput v).regs = s.regs := rfl
@[simp] theorem State.driveOutput_pc (s : State) (v : Byte) : (s.driveOutput v).pc = s.pc := rfl
@[simp] theorem State.driveOutput_ir (s : State) (v : Byte) : (s.driveOutput v).ir = s.ir := rfl
@[simp] theorem State.driveOutput_mem (s : State) (v : Byte) : (s.driveOutput v).mem = s.mem := rfl
@[simp] theorem State.driveOutput_run (s : State) (v : Byte) : (s.driveOutput v).run = s.run := rfl
@[simp] theorem State.driveOutput_faultCode (s : State) (v : Byte) : (s.driveOutput v).faultCode = s.faultCode := rfl
@[simp] theorem State.driveOutput_faultPc (s : State) (v : Byte) : (s.driveOutput v).faultPc = s.faultPc := rfl
@[simp] theorem State.driveOutput_faultIr (s : State) (v : Byte) : (s.driveOutput v).faultIr = s.faultIr := rfl
@[simp] theorem State.driveOutput_faultInfo (s : State) (v : Byte) : (s.driveOutput v).faultInfo = s.faultInfo := rfl
@[simp] theorem State.driveOutput_out (s : State) (v : Byte) : (s.driveOutput v).out = s.out := rfl
@[simp] theorem State.driveOutput_pendingOut (s : State) (v : Byte) : (s.driveOutput v).pendingOut = some v := rfl
@[simp] theorem State.driveOutput_ready (s : State) (v : Byte) : (s.driveOutput v).ready = s.ready := rfl
@[simp] theorem State.driveOutput_cfg (s : State) (v : Byte) : (s.driveOutput v).cfg = s.cfg := rfl
@[simp] theorem State.driveOutput_draws (s : State) (v : Byte) : (s.driveOutput v).draws = s.draws := rfl

/-! ### emit -/

@[simp] theorem State.emit_regs (s : State) (v : Byte) : (s.emit v).regs = s.regs := rfl
@[simp] theorem State.emit_pc (s : State) (v : Byte) : (s.emit v).pc = s.pc := rfl
@[simp] theorem State.emit_ir (s : State) (v : Byte) : (s.emit v).ir = s.ir := rfl
@[simp] theorem State.emit_mem (s : State) (v : Byte) : (s.emit v).mem = s.mem := rfl
@[simp] theorem State.emit_run (s : State) (v : Byte) : (s.emit v).run = s.run := rfl
@[simp] theorem State.emit_faultCode (s : State) (v : Byte) : (s.emit v).faultCode = s.faultCode := rfl
@[simp] theorem State.emit_faultPc (s : State) (v : Byte) : (s.emit v).faultPc = s.faultPc := rfl
@[simp] theorem State.emit_faultIr (s : State) (v : Byte) : (s.emit v).faultIr = s.faultIr := rfl
@[simp] theorem State.emit_faultInfo (s : State) (v : Byte) : (s.emit v).faultInfo = s.faultInfo := rfl
@[simp] theorem State.emit_out (s : State) (v : Byte) : (s.emit v).out = s.out ++ [v] := rfl
@[simp] theorem State.emit_pendingOut (s : State) (v : Byte) : (s.emit v).pendingOut = none := rfl
@[simp] theorem State.emit_ready (s : State) (v : Byte) : (s.emit v).ready = s.ready := rfl
@[simp] theorem State.emit_cfg (s : State) (v : Byte) : (s.emit v).cfg = s.cfg := rfl
@[simp] theorem State.emit_draws (s : State) (v : Byte) : (s.emit v).draws = s.draws := rfl

/-! ### enterFault -/

@[simp] theorem State.enterFault_regs (s : State) (c : FaultCause) (w : Byte) : (s.enterFault c w).regs = s.regs := rfl
@[simp] theorem State.enterFault_pc (s : State) (c : FaultCause) (w : Byte) : (s.enterFault c w).pc = s.pc := rfl
@[simp] theorem State.enterFault_ir (s : State) (c : FaultCause) (w : Byte) : (s.enterFault c w).ir = s.ir := rfl
@[simp] theorem State.enterFault_mem (s : State) (c : FaultCause) (w : Byte) : (s.enterFault c w).mem = s.mem := rfl
@[simp] theorem State.enterFault_run (s : State) (c : FaultCause) (w : Byte) : (s.enterFault c w).run = .faulted := rfl
@[simp] theorem State.enterFault_faultCode (s : State) (c : FaultCause) (w : Byte) : (s.enterFault c w).faultCode = c.code := rfl
@[simp] theorem State.enterFault_faultPc (s : State) (c : FaultCause) (w : Byte) : (s.enterFault c w).faultPc = s.pc := rfl
@[simp] theorem State.enterFault_faultIr (s : State) (c : FaultCause) (w : Byte) : (s.enterFault c w).faultIr = w := rfl
@[simp] theorem State.enterFault_faultInfo (s : State) (c : FaultCause) (w : Byte) : (s.enterFault c w).faultInfo = c.info := rfl
@[simp] theorem State.enterFault_out (s : State) (c : FaultCause) (w : Byte) : (s.enterFault c w).out = s.out := rfl
@[simp] theorem State.enterFault_pendingOut (s : State) (c : FaultCause) (w : Byte) : (s.enterFault c w).pendingOut = s.pendingOut := rfl
@[simp] theorem State.enterFault_ready (s : State) (c : FaultCause) (w : Byte) : (s.enterFault c w).ready = s.ready := rfl
@[simp] theorem State.enterFault_cfg (s : State) (c : FaultCause) (w : Byte) : (s.enterFault c w).cfg = s.cfg := rfl
@[simp] theorem State.enterFault_draws (s : State) (c : FaultCause) (w : Byte) : (s.enterFault c w).draws = s.draws := rfl

/-! ### raise -/

@[simp] theorem State.raise_regs (s : State) (c : FaultCause) : (s.raise c).regs = s.regs := rfl
@[simp] theorem State.raise_pc (s : State) (c : FaultCause) : (s.raise c).pc = s.pc := rfl
@[simp] theorem State.raise_ir (s : State) (c : FaultCause) : (s.raise c).ir = s.ir := rfl
@[simp] theorem State.raise_mem (s : State) (c : FaultCause) : (s.raise c).mem = s.mem := rfl
@[simp] theorem State.raise_run (s : State) (c : FaultCause) : (s.raise c).run = .faulted := rfl
@[simp] theorem State.raise_faultCode (s : State) (c : FaultCause) : (s.raise c).faultCode = c.code := rfl
@[simp] theorem State.raise_faultPc (s : State) (c : FaultCause) : (s.raise c).faultPc = s.pc := rfl
@[simp] theorem State.raise_faultIr (s : State) (c : FaultCause) : (s.raise c).faultIr = s.ir := rfl
@[simp] theorem State.raise_faultInfo (s : State) (c : FaultCause) : (s.raise c).faultInfo = c.info := rfl
@[simp] theorem State.raise_out (s : State) (c : FaultCause) : (s.raise c).out = s.out := rfl
@[simp] theorem State.raise_pendingOut (s : State) (c : FaultCause) : (s.raise c).pendingOut = s.pendingOut := rfl
@[simp] theorem State.raise_ready (s : State) (c : FaultCause) : (s.raise c).ready = s.ready := rfl
@[simp] theorem State.raise_cfg (s : State) (c : FaultCause) : (s.raise c).cfg = s.cfg := rfl
@[simp] theorem State.raise_draws (s : State) (c : FaultCause) : (s.raise c).draws = s.draws := rfl

/-! ### raiseAtFetch -/

@[simp] theorem State.raiseAtFetch_regs (s : State) (c : FaultCause) : (s.raiseAtFetch c).regs = s.regs := rfl
@[simp] theorem State.raiseAtFetch_pc (s : State) (c : FaultCause) : (s.raiseAtFetch c).pc = s.pc := rfl
@[simp] theorem State.raiseAtFetch_ir (s : State) (c : FaultCause) : (s.raiseAtFetch c).ir = s.ir := rfl
@[simp] theorem State.raiseAtFetch_mem (s : State) (c : FaultCause) : (s.raiseAtFetch c).mem = s.mem := rfl
@[simp] theorem State.raiseAtFetch_run (s : State) (c : FaultCause) : (s.raiseAtFetch c).run = .faulted := rfl
@[simp] theorem State.raiseAtFetch_faultCode (s : State) (c : FaultCause) : (s.raiseAtFetch c).faultCode = c.code := rfl
@[simp] theorem State.raiseAtFetch_faultPc (s : State) (c : FaultCause) : (s.raiseAtFetch c).faultPc = s.pc := rfl
@[simp] theorem State.raiseAtFetch_faultIr (s : State) (c : FaultCause) : (s.raiseAtFetch c).faultIr = Config.freeByte s.draws := rfl
@[simp] theorem State.raiseAtFetch_faultInfo (s : State) (c : FaultCause) : (s.raiseAtFetch c).faultInfo = c.info := rfl
@[simp] theorem State.raiseAtFetch_out (s : State) (c : FaultCause) : (s.raiseAtFetch c).out = s.out := rfl
@[simp] theorem State.raiseAtFetch_pendingOut (s : State) (c : FaultCause) : (s.raiseAtFetch c).pendingOut = s.pendingOut := rfl
@[simp] theorem State.raiseAtFetch_ready (s : State) (c : FaultCause) : (s.raiseAtFetch c).ready = s.ready := rfl
@[simp] theorem State.raiseAtFetch_cfg (s : State) (c : FaultCause) : (s.raiseAtFetch c).cfg = s.cfg := rfl
@[simp] theorem State.raiseAtFetch_draws (s : State) (c : FaultCause) : (s.raiseAtFetch c).draws = s.draws + 1 := rfl

/-! ### The host's updates that no step makes -/

@[simp] theorem State.assertReset_regs (s : State) : s.assertReset.regs = s.regs := rfl
@[simp] theorem State.assertReset_pc (s : State) : s.assertReset.pc = s.pc := rfl
@[simp] theorem State.assertReset_ir (s : State) : s.assertReset.ir = s.ir := rfl
@[simp] theorem State.assertReset_mem (s : State) : s.assertReset.mem = s.mem := rfl
@[simp] theorem State.assertReset_run (s : State) : s.assertReset.run = s.run := rfl
@[simp] theorem State.assertReset_faultCode (s : State) : s.assertReset.faultCode = s.faultCode := rfl
@[simp] theorem State.assertReset_faultPc (s : State) : s.assertReset.faultPc = s.faultPc := rfl
@[simp] theorem State.assertReset_faultIr (s : State) : s.assertReset.faultIr = s.faultIr := rfl
@[simp] theorem State.assertReset_faultInfo (s : State) : s.assertReset.faultInfo = s.faultInfo := rfl
@[simp] theorem State.assertReset_out (s : State) : s.assertReset.out = s.out := rfl
@[simp] theorem State.assertReset_pendingOut (s : State) : s.assertReset.pendingOut = s.pendingOut := rfl
@[simp] theorem State.assertReset_ready (s : State) : s.assertReset.ready = false := rfl
@[simp] theorem State.assertReset_cfg (s : State) : s.assertReset.cfg = s.cfg := rfl
@[simp] theorem State.assertReset_draws (s : State) : s.assertReset.draws = s.draws := rfl

@[simp] theorem State.resetWith_regs (c : Config.Params) (d : Nat) : (State.resetWith c d).regs = (Vector.replicate 8 0#8).set 7 c.spReset := rfl
@[simp] theorem State.resetWith_pc (c : Config.Params) (d : Nat) : (State.resetWith c d).pc = 0#16 := rfl
@[simp] theorem State.resetWith_ir (c : Config.Params) (d : Nat) : (State.resetWith c d).ir = 0#8 := rfl
@[simp] theorem State.resetWith_mem (c : Config.Params) (d : Nat) : (State.resetWith c d).mem = [] := rfl
@[simp] theorem State.resetWith_run (c : Config.Params) (d : Nat) : (State.resetWith c d).run = .idle := rfl
@[simp] theorem State.resetWith_faultCode (c : Config.Params) (d : Nat) : (State.resetWith c d).faultCode = 0#8 := rfl
@[simp] theorem State.resetWith_faultPc (c : Config.Params) (d : Nat) : (State.resetWith c d).faultPc = 0#16 := rfl
@[simp] theorem State.resetWith_faultIr (c : Config.Params) (d : Nat) : (State.resetWith c d).faultIr = 0#8 := rfl
@[simp] theorem State.resetWith_faultInfo (c : Config.Params) (d : Nat) : (State.resetWith c d).faultInfo = 0#16 := rfl
@[simp] theorem State.resetWith_out (c : Config.Params) (d : Nat) : (State.resetWith c d).out = [] := rfl
@[simp] theorem State.resetWith_pendingOut (c : Config.Params) (d : Nat) : (State.resetWith c d).pendingOut = none := rfl
@[simp] theorem State.resetWith_ready (c : Config.Params) (d : Nat) : (State.resetWith c d).ready = true := rfl
@[simp] theorem State.resetWith_cfg (c : Config.Params) (d : Nat) : (State.resetWith c d).cfg = c := rfl
@[simp] theorem State.resetWith_draws (c : Config.Params) (d : Nat) : (State.resetWith c d).draws = d := rfl

/-! ### Registers through the updates -/

@[simp] theorem State.getReg_setReg_same (s : State) (i : Fin 8) (v : Byte) :
    (s.setReg i v).getReg i = v := by
  simp [State.getReg]

theorem State.getReg_setReg (s : State) (i j : Fin 8) (v : Byte) :
    (s.setReg i v).getReg j = if i = j then v else s.getReg j := by
  simp only [State.getReg, State.setReg_regs, Fin.getElem_fin, Vector.getElem_set, Fin.ext_iff]

@[simp] theorem State.getReg_setReg_ne (s : State) {i j : Fin 8} (v : Byte) (h : i ≠ j) :
    (s.setReg i v).getReg j = s.getReg j := by
  simp [State.getReg_setReg, h]

/-- A register file whose bytes are the same holds the same registers. -/
theorem State.getReg_congr {s t : State} (h : t.regs = s.regs) (q : Fin 8) :
    t.getReg q = s.getReg q := by
  simp [State.getReg, h]

end Sys2Proof.Machine
end

