-- ==== Sys2Proof/Laws/Ops.lean ====
section
/-! SUPPORT. One lemma per shared operation that says everything it can do; later proofs cite these
and unfold none of the operations. -/

namespace Sys2Proof.Machine

/-! ### Register operands -/

theorem validRegByte_iff (b : Byte) : validRegByte b = true ↔ b.toNat < 8 := by
  simp [validRegByte]

theorem highBits_eq_zero_iff (b : Byte) : b.extractLsb' 3 5 = 0#5 ↔ b.toNat < 8 := by
  have : ∀ n, n < 256 → ((BitVec.ofNat 8 n).extractLsb' 3 5 = 0#5 ↔ (BitVec.ofNat 8 n).toNat < 8) := by
    decide +kernel
  simpa using this b.toNat b.isLt

/-- The check a valid register byte passes, at either position. -/
theorem regIdx_valid {b : Byte} (h : validRegByte b = true) (p : Byte) :
    regIdx b p = .ok (lowIndex b) := by
  have := (highBits_eq_zero_iff b).2 ((validRegByte_iff b).1 h)
  simp [regIdx, this]

/-- The fault an invalid register byte raises. -/
theorem regIdx_invalid {b : Byte} (h : validRegByte b = false) (p : Byte) :
    regIdx b p = .error (.illegalRegister p b) := by
  have : ¬ b.extractLsb' 3 5 = 0#5 := by
    rw [highBits_eq_zero_iff, ← validRegByte_iff, h]
    simp
  simp [regIdx, this]

theorem lowIndex_val {b : Byte} (h : validRegByte b = true) : (lowIndex b).val = b.toNat := by
  have h8 := (validRegByte_iff b).1 h
  simp only [lowIndex, BitVec.val_toFin, BitVec.extractLsb'_toNat]
  omega

@[simp] theorem validRegByte_ofFin (r : Fin 8) : validRegByte (BitVec.ofNat 8 r) = true := by
  revert r; decide

@[simp] theorem lowIndex_ofFin (r : Fin 8) : lowIndex (BitVec.ofNat 8 r) = r := by
  revert r; decide

/-! ### Stack-pointer logic and data addresses -/

theorem spDec_eq (v : Byte) : spDec v = v - 1#8 := by
  apply BitVec.eq_of_toNat_eq
  simp only [spDec, BitVec.toNat_ofNat, BitVec.toNat_sub]
  have := v.isLt
  omega

theorem spInc_eq (v : Byte) : spInc v = v + 1#8 := by
  apply BitVec.eq_of_toNat_eq
  simp [spInc]

@[simp] theorem spInc_spDec (v : Byte) : spInc (spDec v) = v := by
  rw [spDec_eq, spInc_eq]
  simp

@[simp] theorem dataAddr_toNat (v : Byte) : (dataAddr v).toNat = v.toNat := by
  have := v.isLt
  simp only [dataAddr, zext, BitVec.toNat_setWidth]
  omega

theorem byte_lt_memSize (v : Byte) : v.toNat < memSize := v.isLt

@[simp] theorem memRead_dataAddr (s : State) (v : Byte) :
    s.memRead (dataAddr v) = .ok (s.mem.read v.toNat) := by
  simp [State.memRead, byte_lt_memSize]

@[simp] theorem memWrite_dataAddr (s : State) (v w : Byte) :
    s.memWrite (dataAddr v) w = .ok (s.setMem (s.mem.write v.toNat w)) := by
  simp [State.memWrite, byte_lt_memSize]

/-! ### Fetch -/

theorem fetch_of_lt (s : State) {a : Word} (h : a.toNat < memSize) :
    s.fetch a = .ok (s.mem.read a.toNat) := by
  simp [State.fetch, State.memRead, h, Nat.not_le.2 h]

theorem fetch_of_ge (s : State) {a : Word} (h : memSize ≤ a.toNat) :
    s.fetch a = .error (.memOutOfRange a) := by
  simp [State.fetch, h]

/-- The incrementer does not wrap for a pc an opcode was fetched at (40_fetch_decode R106). -/
theorem pcPlus_toNat {pc : Word} {k : Nat} (h : pc.toNat < memSize) (hk : k ≤ 3) :
    (pcPlus pc k).toNat = pc.toNat + k := by
  simp only [pcPlus, BitVec.toNat_add, BitVec.toNat_ofNat]
  simp only [memSize] at h
  omega

@[simp] theorem pcPlus_zero (pc : Word) : pcPlus pc 0 = pc := by simp [pcPlus]

/-! ### ALU -/

theorem alu_mul (a b : Byte) : alu aluMul a b = .ok (a * b) := by
  have : BitVec.ofNat 8 (a.toNat * b.toNat) = a * b := by
    apply BitVec.eq_of_toNat_eq
    simp
  simp [alu, aluMul, aluAdd, aluSub, this]

/-! ### The end of an instruction -/

@[simp] theorem finish_ok (s t : State) : s.finish (.ok t) = .next t := rfl
@[simp] theorem finish_error (s : State) (c : FaultCause) : s.finish (.error c) = .next (s.raise c) := rfl

end Sys2Proof.Machine
end

