-- ==== Sys2Proof/Laws/Exec.lean ====
section
/-! SUPPORT. What each meaning can do, once: its result where every register byte is valid, the
fault it enters where one is not. -/

namespace Sys2Proof.Machine

theorem execLdi_valid {r : Byte} (h : validRegByte r = true) (v : Byte) (s : State) :
    execLdi r v s = .next ((s.setReg (lowIndex r) v).advancePc 3) := by
  simp [execLdi, regIdx_valid h, bind, Except.bind]

theorem execLdi_invalid {r : Byte} (h : validRegByte r = false) (v : Byte) (s : State) :
    execLdi r v s = .next (s.raise (.illegalRegister 1 r)) := by
  simp [execLdi, regIdx_invalid h, bind, Except.bind]

theorem execPrn_valid {r : Byte} (h : validRegByte r = true) (s : State) :
    execPrn r s = .next ((s.emit (s.getReg (lowIndex r))).advancePc 2) := by
  simp [execPrn, regIdx_valid h, bind, Except.bind]

theorem execPrn_invalid {r : Byte} (h : validRegByte r = false) (s : State) :
    execPrn r s = .next (s.raise (.illegalRegister 1 r)) := by
  simp [execPrn, regIdx_invalid h, bind, Except.bind]

theorem execMul_valid {a b : Byte} (ha : validRegByte a = true) (hb : validRegByte b = true)
    (s : State) :
    execMul a b s = .next ((s.setReg (lowIndex a)
      (s.getReg (lowIndex a) * s.getReg (lowIndex b))).advancePc 3) := by
  simp [execMul, regIdx_valid ha, regIdx_valid hb, alu_mul, bind, Except.bind]

theorem execMul_invalid_first {a : Byte} (ha : validRegByte a = false) (b : Byte) (s : State) :
    execMul a b s = .next (s.raise (.illegalRegister 1 a)) := by
  simp [execMul, regIdx_invalid ha, bind, Except.bind]

theorem execMul_invalid_second {a b : Byte} (ha : validRegByte a = true)
    (hb : validRegByte b = false) (s : State) :
    execMul a b s = .next (s.raise (.illegalRegister 2 b)) := by
  simp [execMul, regIdx_valid ha, regIdx_invalid hb, bind, Except.bind]

/-- The value PUSH stores: the register's, read after the decrement of register 7. -/
def pushValue (s : State) (r : Fin 8) : Byte := (s.setReg spIndex (spDec s.sp)).getReg r

theorem execPush_valid {r : Byte} (h : validRegByte r = true) (s : State) :
    execPush r s = .next (((s.setReg spIndex (spDec s.sp)).setMem
      (s.mem.write (pushAddr s) (pushValue s (lowIndex r)))).advancePc 2) := by
  simp [execPush, regIdx_valid h, bind, Except.bind, pushValue, pushAddr, State.sp]

theorem execPush_invalid {r : Byte} (h : validRegByte r = false) (s : State) :
    execPush r s = .next (s.raise (.illegalRegister 1 r)) := by
  simp [execPush, regIdx_invalid h, bind, Except.bind]

/-- The state after POP's write of its destination register, before the increment. -/
def popped (s : State) (r : Fin 8) : State := s.setReg r (s.mem.read s.sp.toNat)

theorem execPop_valid {r : Byte} (h : validRegByte r = true) (s : State) :
    execPop r s = .next (((popped s (lowIndex r)).setReg spIndex
      (spInc (popped s (lowIndex r)).sp)).advancePc 2) := by
  simp [execPop, regIdx_valid h, bind, Except.bind, popped]

theorem execPop_invalid {r : Byte} (h : validRegByte r = false) (s : State) :
    execPop r s = .next (s.raise (.illegalRegister 1 r)) := by
  simp [execPop, regIdx_invalid h, bind, Except.bind]

/-! ### All instructions at once -/

/-- What a well-formed instruction does. -/
def execResult (i : Instr) (s : State) : State :=
  match i with
  | .halt => (s.setRun .halted).setPc (haltPc s)
  | .ldi r v => (s.setReg (lowIndex r) v).advancePc 3
  | .prn r => (s.emit (s.getReg (lowIndex r))).advancePc 2
  | .mul a b => (s.setReg (lowIndex a) (s.getReg (lowIndex a) * s.getReg (lowIndex b))).advancePc 3
  | .push r => ((s.setReg spIndex (spDec s.sp)).setMem
      (s.mem.write (pushAddr s) (pushValue s (lowIndex r)))).advancePc 2
  | .pop r => ((popped s (lowIndex r)).setReg spIndex (spInc (popped s (lowIndex r)).sp)).advancePc 2

theorem exec_wellFormed {i : Instr} (h : i.wellFormed = true) (s : State) :
    exec i s = .next (execResult i s) := by
  cases i with
  | halt => rfl
  | ldi r v => exact execLdi_valid h v s
  | prn r => exact execPrn_valid h s
  | mul a b =>
    obtain ⟨ha, hb⟩ := (Bool.and_eq_true _ _).mp h
    exact execMul_valid ha hb s
  | push r => exact execPush_valid h s
  | pop r => exact execPop_valid h s

theorem exec_illFormed {i : Instr} (h : i.wellFormed = false) (s : State) :
    ∃ p b, exec i s = .next (s.raise (.illegalRegister p b)) := by
  cases i with
  | halt => exact absurd h (by decide)
  | ldi r v => exact ⟨_, _, execLdi_invalid h v s⟩
  | prn r => exact ⟨_, _, execPrn_invalid h s⟩
  | mul a b =>
    cases ha : validRegByte a with
    | false => exact ⟨_, _, execMul_invalid_first ha b s⟩
    | true => exact ⟨_, _, execMul_invalid_second ha (by simpa [Instr.wellFormed, ha] using h) s⟩
  | push r => exact ⟨_, _, execPush_invalid h s⟩
  | pop r => exact ⟨_, _, execPop_invalid h s⟩

/-- Everything an instruction that answers a next state can have done. -/
theorem exec_cases {i : Instr} {s t : State} (h : exec i s = .next t) :
    (i.wellFormed = true ∧ t = execResult i s) ∨
    (i.wellFormed = false ∧ ∃ p b, t = s.raise (.illegalRegister p b)) := by
  cases hw : i.wellFormed with
  | true =>
    rw [exec_wellFormed hw] at h
    exact .inl ⟨rfl, by simpa using h.symm⟩
  | false =>
    obtain ⟨p, b, hx⟩ := exec_illFormed hw s
    rw [hx] at h
    exact .inr ⟨rfl, p, b, by simpa using h.symm⟩

end Sys2Proof.Machine
end

