-- ==== Sys2Proof/Laws/PerInstr.lean ====
section
/-! SUPPORT. Facts about every instruction as syntax, one lemma per constructor. -/

/-- The encoding starts with the opcode and is as long as the opcode table says (spec/30_encoding.md
R80, R85). -/
def Sys2Proof.Laws.EncodeShape.Statement (i : Sys2Proof.Instr) : Prop :=
  (Sys2Proof.encode i).head? = some i.opcode ∧ (Sys2Proof.encode i).length = i.length ∧
    (Sys2Proof.controlWord i.opcode).map Sys2Proof.ControlWord.len = some i.length

theorem Sys2Proof.Laws.EncodeShape.halt : Sys2Proof.Laws.EncodeShape.Statement .halt :=
  ⟨rfl, rfl, by decide⟩

theorem Sys2Proof.Laws.EncodeShape.ldi (r v : Sys2Proof.Byte) :
    Sys2Proof.Laws.EncodeShape.Statement (.ldi r v) :=
  ⟨rfl, rfl, by simp only [Sys2Proof.Instr.opcode, Sys2Proof.Instr.length]; decide⟩

theorem Sys2Proof.Laws.EncodeShape.prn (r : Sys2Proof.Byte) :
    Sys2Proof.Laws.EncodeShape.Statement (.prn r) :=
  ⟨rfl, rfl, by simp only [Sys2Proof.Instr.opcode, Sys2Proof.Instr.length]; decide⟩

theorem Sys2Proof.Laws.EncodeShape.mul (a b : Sys2Proof.Byte) :
    Sys2Proof.Laws.EncodeShape.Statement (.mul a b) :=
  ⟨rfl, rfl, by simp only [Sys2Proof.Instr.opcode, Sys2Proof.Instr.length]; decide⟩

theorem Sys2Proof.Laws.EncodeShape.push (r : Sys2Proof.Byte) :
    Sys2Proof.Laws.EncodeShape.Statement (.push r) :=
  ⟨rfl, rfl, by simp only [Sys2Proof.Instr.opcode, Sys2Proof.Instr.length]; decide⟩

theorem Sys2Proof.Laws.EncodeShape.pop (r : Sys2Proof.Byte) :
    Sys2Proof.Laws.EncodeShape.Statement (.pop r) :=
  ⟨rfl, rfl, by simp only [Sys2Proof.Instr.opcode, Sys2Proof.Instr.length]; decide⟩
end

