-- ==== Sys2Proof/Laws/Step.lean ====
section
/-! SUPPORT. What the decoder and one step can do, once; every invariant is derived from
`step_cases`. -/

namespace Sys2Proof.Machine

/-! ### The handlers' operand reads -/

/-- The handlers ask only for bytes 1 and 2, so only those matter. -/
theorem decodeOperands_congr {ε : Type} (op : Byte) {f g : Nat → Except ε Byte}
    (unknown : Byte → ε) (h1 : f 1 = g 1) (h2 : f 2 = g 2) :
    decodeOperands op f unknown = decodeOperands op g unknown := by
  simp only [decodeOperands, h1, h2]

/-- The instruction read has the opcode it was looked up by. -/
theorem decodeOperands_opcode {ε : Type} {op : Byte} {f : Nat → Except ε Byte}
    {unknown : Byte → ε} {i : Instr} (h : decodeOperands op f unknown = .ok i) : i.opcode = op := by
  unfold decodeOperands at h
  cases h1 : f 1 <;> cases h2 : f 2 <;> simp only [h1, h2, bind, Except.bind] at h <;>
    (repeat' split at h) <;> simp_all <;> (subst h; simp [Instr.opcode])

/-- A supply of bytes that gives at least what another gives reads the same instruction. -/
theorem decodeOperands_mono {ε δ : Type} {op : Byte} {f : Nat → Except ε Byte}
    {g : Nat → Except δ Byte} {unknown : Byte → ε} (unknown' : Byte → δ) {i : Instr}
    (h : decodeOperands op f unknown = .ok i)
    (h1 : ∀ b, f 1 = .ok b → g 1 = .ok b) (h2 : ∀ b, f 2 = .ok b → g 2 = .ok b) :
    decodeOperands op g unknown' = .ok i := by
  unfold decodeOperands at h ⊢
  cases e1 : f 1 <;> cases e2 : f 2 <;>
    simp only [e1, e2, bind, Except.bind, reduceCtorEq, false_implies, implies_true,
      Except.ok.injEq, forall_eq'] at h h1 h2 ⊢ <;>
    (repeat' split at h) <;> simp_all

/-- Why the handlers stop: an opcode outside the table, or a byte that could not be supplied. -/
theorem decodeOperands_error {ε : Type} {op : Byte} {f : Nat → Except ε Byte}
    {unknown : Byte → ε} {e : ε} (h : decodeOperands op f unknown = .error e) :
    (e = unknown op ∧ controlWord op = none) ∨ f 1 = .error e ∨ f 2 = .error e := by
  unfold decodeOperands at h
  unfold controlWord
  cases h1 : f 1 <;> cases h2 : f 2 <;> simp only [h1, h2, bind, Except.bind] at h <;>
    (repeat' split at h) <;> simp_all

/-- The fault of an instruction fetch: an unknown opcode, or an operand byte past the end. -/
theorem fetchInstr_error {s : State} {op : Byte} {c : FaultCause}
    (h : s.fetchInstr op = .error c) :
    (c = .unknownOpcode op ∧ controlWord op = none) ∨ ∃ a, c = .memOutOfRange a := by
  have fetch_error : ∀ {a : Word}, s.fetch a = .error c → c = .memOutOfRange a := by
    intro a ha
    by_cases hlt : a.toNat < memSize
    · rw [fetch_of_lt s hlt] at ha
      cases ha
    · rw [fetch_of_ge s (Nat.not_lt.1 hlt)] at ha
      cases ha
      rfl
  rcases decodeOperands_error h with h | h | h
  · exact .inl h
  · exact .inr ⟨_, fetch_error h⟩
  · exact .inr ⟨_, fetch_error h⟩

/-! ### One step -/

theorem runStep_outOfRange {s : State} (h : memSize ≤ s.pc.toNat) :
    runStep s = .next (s.raiseAtFetch (.memOutOfRange s.pc)) := by
  simp [runStep, fetch_of_ge s h]

/-- The run loop's step once the opcode has been fetched. -/
theorem runStep_inRange {s : State} (h : s.pc.toNat < memSize) :
    runStep s =
      (match (s.setIr (s.mem.read s.pc.toNat)).fetchInstr (s.mem.read s.pc.toNat) with
      | .error c => .next ((s.setIr (s.mem.read s.pc.toNat)).raise c)
      | .ok i => exec i (s.setIr (s.mem.read s.pc.toNat))) := by
  have hf := fetch_of_lt s h
  unfold runStep
  generalize s.fetch s.pc = r at hf ⊢
  cases hf
  rfl

theorem step_running {s : State} (hr : s.ready = true) (h : s.run = .running) :
    step s = runStep s := by
  simp [step, hr, h]

theorem step_notReady {s : State} (hr : s.ready = false) : step s = .next s.completeReset := by
  simp [step, hr]

theorem step_stopped {s : State} (hr : s.ready = true) (h : s.run ≠ .running) :
    step s = .next s := by
  cases hrun : s.run <;> simp_all [step]

/-- Everything a step that answers a next state can have done. -/
theorem step_cases {s t : State} (h : step s = .next t) :
    (s.ready = false ∧ t = s.completeReset) ∨
    (s.ready = true ∧ s.run ≠ .running ∧ t = s) ∨
    (s.ready = true ∧ s.run = .running ∧ memSize ≤ s.pc.toNat ∧
      t = s.raiseAtFetch (.memOutOfRange s.pc)) ∨
    (s.ready = true ∧ s.run = .running ∧ s.pc.toNat < memSize ∧
      ∃ c, (s.setIr (s.mem.read s.pc.toNat)).fetchInstr (s.mem.read s.pc.toNat) = .error c ∧
        t = (s.setIr (s.mem.read s.pc.toNat)).raise c) ∨
    (s.ready = true ∧ s.run = .running ∧ s.pc.toNat < memSize ∧
      ∃ i, (s.setIr (s.mem.read s.pc.toNat)).fetchInstr (s.mem.read s.pc.toNat) = .ok i ∧
        exec i (s.setIr (s.mem.read s.pc.toNat)) = .next t) := by
  by_cases hr : s.ready = true
  · by_cases hrun : s.run = .running
    · rw [step_running hr hrun] at h
      by_cases hpc : s.pc.toNat < memSize
      · rw [runStep_inRange hpc] at h
        split at h
        · next c hc => exact .inr (.inr (.inr (.inl ⟨hr, hrun, hpc, c, hc, by simpa using h.symm⟩)))
        · next i hi => exact .inr (.inr (.inr (.inr ⟨hr, hrun, hpc, i, hi, h⟩)))
      · have hpc := Nat.not_lt.1 hpc
        rw [runStep_outOfRange hpc] at h
        exact .inr (.inr (.inl ⟨hr, hrun, hpc, by simpa using h.symm⟩))
    · rw [step_stopped hr hrun] at h
      exact .inr (.inl ⟨hr, hrun, by simpa using h.symm⟩)
  · have hr : s.ready = false := by simpa using hr
    rw [step_notReady hr] at h
    exact .inl ⟨hr, by simpa using h.symm⟩

end Sys2Proof.Machine
end

