-- ==== Sys2Proof/Machine/Flags.lean ====
section
/-! DEFINITION. Flag computations: none. The block has no flags register and no condition codes
(spec/10_state.md R31); the carry of ADD, the borrow of SUB and the high byte of MUL are discarded
and recorded nowhere (spec/43_alu.md R142 to R144). State therefore has no flag field, and this file
defines nothing. -/
end

