-- ==== Sys2Proof/Machine/Timing.lean ====
section
/-! DEFINITION. The cycle counts of the reference realisation (spec/70_reset_and_hazards.md R214),
informative: no rule, step or statement depends on them. -/

namespace Sys2Proof.Machine

/-- Cycles of an instruction, with `wait` cycles until the host takes PRINT_REG's value (R214). -/
def referenceCycles (i : Instr) (wait : Nat) : Nat :=
  match i with
  | .halt    => 2
  | .ldi _ _ => 4
  | .prn _   => 3 + wait
  | .mul _ _ => 4
  | .push _  => 3
  | .pop _   => 4

/-- Cycles of an unknown opcode (R214). -/
def referenceCyclesUnknown : Nat := 2

end Sys2Proof.Machine
end

