-- ==== Sys2Proof/Tests/Slice0.lean ====
section
/-! SUPPORT. Own tests. Expected results come from the spec: the vectors of spec/95_test_vectors.md
(named in each comment) and words written out from the encoding tables. The theorems named
`test_witness_…` show states and operands that meet the hypotheses of the statement they name. -/

set_option Elab.async false

namespace Sys2Proof.Machine.Tests

/-- A RUNNING state right after reset, with bytes `bs` from the pc on. -/
def at_ (pc : Word) (bs : List Byte) : State :=
  { State.reset with run := .running, pc := pc, mem := storeBytes [] pc.toNat bs }

/-- The state a step answers. -/
def after (s : State) : State :=
  match step s with
  | .next t => t
  | .fault _ => s
  | .refused _ => s

/-- What the spec's "Fault X(info)" says of the end state, and that `x`, `pc`, `OUT` stay. -/
def faultsWith (s : State) (code : Byte) (info : Word) : Bool :=
  let t := after s
  t.run == .faulted && t.faultCode == code && t.faultInfo == info && t.faultPc == s.pc &&
    t.regs == s.regs && t.pc == s.pc && t.out == s.out && t.mem == s.mem

/-! ### WellFormed refuses an ill-formed term for each of its checks -/

theorem test_wellFormed_ldi : (Instr.ldi 8#8 0#8).wellFormed = false := by decide
theorem test_wellFormed_prn : (Instr.prn 8#8).wellFormed = false := by decide
theorem test_wellFormed_mul_first : (Instr.mul 8#8 0#8).wellFormed = false := by decide
theorem test_wellFormed_mul_second : (Instr.mul 7#8 255#8).wellFormed = false := by decide
theorem test_wellFormed_push : (Instr.push 128#8).wellFormed = false := by decide
theorem test_wellFormed_pop : (Instr.pop 8#8).wellFormed = false := by decide
theorem test_wellFormed_accepts : (Instr.ldi 7#8 255#8).wellFormed = true := by decide

/-! ### Decoding: words written out bit by bit from 30_encoding R86 -/

theorem test_decode_halt : decode [0b00000001#8] = .ok (.halt, []) := by decide
theorem test_decode_ldi :
    decode [0b10000010#8, 0b00000011#8, 0b11111111#8, 0b00000001#8] = .ok (.ldi 3#8 255#8, [1#8]) := by
  decide
theorem test_decode_prn : decode [0b01000111#8, 0b00000111#8] = .ok (.prn 7#8, []) := by decide
theorem test_decode_mul :
    decode [0b10100010#8, 0b00000001#8, 0b00000010#8] = .ok (.mul 1#8 2#8, []) := by decide
theorem test_decode_push : decode [0b01000101#8, 0b00000100#8] = .ok (.push 4#8, []) := by decide
theorem test_decode_pop : decode [0b01000110#8, 0b00000101#8] = .ok (.pop 5#8, []) := by decide
/-- 0xA0 is not ADD here (FD2, R88). -/
theorem test_decode_unknown : decode [0xA0#8, 0#8, 1#8] = .error (.unknownOpcode 0xA0#8) := by decide
theorem test_decode_truncated : decode [0x82#8, 0#8] = .error (.missingByte 2) := by decide
theorem test_tableWord_ldi : decodeTableWord 24 0x080082 = some (.ldi 0#8 8#8) := by decide
theorem test_tableWord_short : decodeTableWord 8 0xFFFF82 = some (.ldi 0#8 0#8) := by decide
theorem test_tableWord_runs :
    (after (State.reset.withFetchWord 16 0x0346)).regs[3] = 0#8 ∧
      (after (State.reset.withFetchWord 16 0x0346)).regs[7] = 0xF5#8 := by decide +kernel

/-! ### One step (95_test_vectors) -/

/-- FD1. -/
theorem test_step_unknown_zero : faultsWith (at_ 0 []) 0x01 0x0000 = true := by decide +kernel
/-- FD2. -/
theorem test_step_unknown_a0 : faultsWith (at_ 0 [0xA0, 0x00, 0x01]) 0x01 0x00A0 = true := by decide +kernel
/-- FD5: the pc is not wrapped and `IR` is kept. -/
theorem test_step_fetch_256 :
    faultsWith { at_ 256 [] with ir := 0x47 } 0x02 0x0100 = true ∧
      (after { at_ 256 [] with ir := 0x47 }).ir = 0x47 := by decide +kernel
/-- FD6. -/
theorem test_step_operand_256 :
    faultsWith (at_ 254 [0x82, 0x00]) 0x02 0x0100 = true ∧
      (after (at_ 254 [0x82, 0x00])).faultIr = 0x82 := by decide +kernel
/-- FD8. -/
theorem test_step_halt_255 : (after (at_ 255 [0x01])).run = .halted := by decide +kernel
/-- FD10: the operand fetch comes before the register check. -/
theorem test_step_priority : faultsWith (at_ 254 [0xA2, 0x09]) 0x02 0x0100 = true := by decide +kernel
/-- FD11, FD12. -/
theorem test_step_mul_illegal :
    faultsWith (at_ 0 [0xA2, 0x08, 0x09]) 0x03 0x0108 = true ∧
      faultsWith (at_ 0 [0xA2, 0x00, 0xFF]) 0x03 0x02FF = true := by decide +kernel
/-- FD13. -/
theorem test_step_push_illegal : faultsWith (at_ 0 [0x45, 0x80]) 0x03 0x0180 = true := by decide +kernel
/-- H1, H2: both settings of HALT_PC_ZERO. -/
theorem test_step_halt :
    (after (at_ 5 [0x01])).pc = 0 ∧
      (after { at_ 5 [0x01] with cfg := ⟨0xF4, false⟩ }).pc = 5 := by decide +kernel
/-- H4: a start after HALT with HALT_PC_ZERO false halts at 5 again. -/
theorem test_start_after_halt :
    let s := after { at_ 5 [0x01] with cfg := ⟨0xF4, false⟩ }
    s.run = .halted ∧ (after s.start).run = .halted ∧ (after s.start).pc = 5 := by decide +kernel
/-- L2: LOAD_IMMEDIATE sets the stack pointer. -/
theorem test_step_ldi_sp :
    (after (at_ 0 [0x82, 0x07, 0x10])).regs[7] = 0x10 ∧ (after (at_ 0 [0x82, 0x07, 0x10])).pc = 3 := by
  decide +kernel
/-- L4. -/
theorem test_step_ldi_illegal : faultsWith (at_ 0 [0x82, 0x08, 0x05]) 0x03 0x0108 = true := by decide +kernel
/-- P2v: the register's content is emitted. -/
theorem test_step_prn :
    (after (at_ 0 [0x47, 0x07])).out = [244] ∧ (after (at_ 0 [0x47, 0x07])).pc = 2 := by decide +kernel
/-- P3v. -/
theorem test_step_prn_illegal : faultsWith (at_ 0 [0x47, 0x10]) 0x03 0x0110 = true := by decide +kernel
/-- M2: a source that is also the destination. -/
theorem test_step_mul_square :
    (after ((at_ 0 [0xA2, 0x02, 0x02]).setReg 2 0x0D)).regs[2] = 0xA9 := by decide +kernel
/-- M6: the product wraps, the second source keeps its value. -/
theorem test_step_mul_wraps :
    let t := after (((at_ 0 [0xA2, 0x01, 0x02]).setReg 1 0xFF).setReg 2 0xFF)
    t.regs[1] = 0x01 ∧ t.regs[2] = 0xFF := by decide +kernel
/-- S3: PUSH wraps below 0. -/
theorem test_step_push_wraps :
    let t := after (((at_ 0 [0x45, 0x00]).setReg 7 0x00).setReg 0 0x2A)
    t.regs[7] = 0xFF ∧ t.mem.read 0xFF = 0x2A := by decide +kernel
/-- S5: PUSH of register 7 pushes the decremented value. -/
theorem test_step_push_sp :
    (after (at_ 0 [0x45, 0x07])).mem.read 0xF3 = 0xF3 := by decide +kernel
/-- S4: POP wraps above 255. -/
theorem test_step_pop_wraps :
    let s := (at_ 0 [0x46, 0x03]).setReg 7 0xFF
    let t := after (s.setMem (s.mem.write 0xFF 0x2A))
    t.regs[3] = 0x2A ∧ t.regs[7] = 0x00 := by decide +kernel
/-- S8: POP into register 7 increments the popped value. -/
theorem test_step_pop_sp :
    let s := (at_ 0 [0x46, 0x07]).setReg 7 0xF3
    (after (s.setMem (s.mem.write 0xF3 0x20))).regs[7] = 0x21 := by decide +kernel
/-- RS3: a start is ignored in FAULTED. -/
theorem test_start_faulted :
    (after (at_ 0 [0xFF])).start = after (at_ 0 [0xFF]) := by decide +kernel
/-- RS2: reset takes the configured SP_RESET. -/
theorem test_reset_sp :
    (after { at_ 9 [0x01] with cfg := ⟨0x00, true⟩, ready := false }).regs[7] = 0x00 ∧
      (after { at_ 9 [0x01] with ready := false }).regs[7] = 0xF4 := by decide +kernel

/-! ### ALU (A5 to A12, A16, A19) -/

theorem test_alu_add : alu 0b00 200 100 = .ok 44 := by decide
theorem test_alu_sub : alu 0b01 3 5 = .ok 254 := by decide
theorem test_alu_mul : alu 0b10 15 17 = .ok 255 ∧ alu 0b10 3 86 = .ok 2 := by decide
theorem test_alu_none : alu 0b11 1 2 = .error (.unsupportedAluOp 0b11) := by decide

/-! ### Loader and program file (LD2, LD4, LD5, LD6, LD8) -/

theorem test_line_long : lineValue ['1', '0', '0', '0', '0', '0', '0', '0', '1'] = some 1 := by decide
theorem test_file_skips :
    parseProgramFile ['1', '0', '1', '0', '2', '\n', 'a', 'b', 'c', '\n', '#', ' ', 'o', '\n', '\n', '1'] =
      [1] := by decide
theorem test_line_prefix : lineValue ['0', 'b', '1', '0', '1'] = none := by decide
theorem test_load_twice :
    let s := ((State.reset.load [0x11, 0x22, 0x33]).state.load [0x144]).state
    s.mem.read 0 = 0x44 ∧ s.mem.read 1 = 0x22 := by decide +kernel
theorem test_loader_running : ((at_ 0 []).loaderWrite 5 7).mem = [] := by decide

/-! ### Assembler and output text (30_encoding R91, R92; P1) -/

theorem test_asm_ldi :
    assembleLine ("LDI R7, 0x09      # SP = 9".toList) = some [0x82, 0x07, 0x09] := by decide +kernel
theorem test_asm_alias :
    assembleLine ("HLT".toList) = some [0x01] ∧ assembleLine ("PUSH SP".toList) = some [0x45, 0x07] := by
  decide +kernel
theorem test_output_text : outputText [8, 244, 0] = "8\n244\n0\n".toList := by decide +kernel
theorem test_cycles : referenceCycles (.prn 0) 2 = 5 := by decide

/-! ### Witnesses: states and operands that meet the hypotheses of the statements -/

/-- The step's common hypotheses at a state whose opcode byte is `op`. -/
def opcodeAt (s : State) (op : Byte) : Prop :=
  s.ready = true ∧ s.run = .running ∧ s.pc.toNat < 256 ∧ s.mem.read s.pc.toNat = op

theorem test_witness_StepRunsDecodedInstruction :
    (at_ 253 [0x82, 0x07, 0xFF]).ready = true ∧ (at_ 253 [0x82, 0x07, 0xFF]).run = .running ∧
      decode (at_ 253 [0x82, 0x07, 0xFF]).codeBytes = .ok (.ldi 7 255, []) := by decide +kernel
theorem test_witness_StepIdlesOutsideRunning :
    State.reset.ready = true ∧ State.reset.run ≠ .running := by decide
theorem test_witness_HaltStepRule : opcodeAt (at_ 255 [0x01]) 0b00000001 := by
  refine ⟨?_, ?_, ?_, ?_⟩ <;> decide +kernel
/-- Each branch of the rule: pc 255, pc 254, register byte 7, register byte 8. -/
theorem test_witness_LoadImmediateStepRule :
    opcodeAt (at_ 255 [0x82]) 0b10000010 ∧ opcodeAt (at_ 254 [0x82, 0x00]) 0b10000010 ∧
      opcodeAt (at_ 253 [0x82, 0x07, 0xFF]) 0b10000010 ∧ opcodeAt (at_ 253 [0x82, 0x08, 0xFF]) 0b10000010 := by
  refine ⟨⟨?_, ?_, ?_, ?_⟩, ⟨?_, ?_, ?_, ?_⟩, ⟨?_, ?_, ?_, ?_⟩, ⟨?_, ?_, ?_, ?_⟩⟩ <;> decide +kernel
theorem test_witness_PrintRegStepRule :
    opcodeAt (at_ 255 [0x47]) 0b01000111 ∧ opcodeAt (at_ 254 [0x47, 0x07]) 0b01000111 ∧
      opcodeAt (at_ 254 [0x47, 0x08]) 0b01000111 := by
  refine ⟨⟨?_, ?_, ?_, ?_⟩, ⟨?_, ?_, ?_, ?_⟩, ⟨?_, ?_, ?_, ?_⟩⟩ <;> decide +kernel
theorem test_witness_MultiplyStepRule :
    opcodeAt (at_ 255 [0xA2]) 0b10100010 ∧ opcodeAt (at_ 254 [0xA2, 0x00]) 0b10100010 ∧
      opcodeAt (at_ 253 [0xA2, 0x07, 0x07]) 0b10100010 ∧ opcodeAt (at_ 253 [0xA2, 0x08, 0x08]) 0b10100010 ∧
      opcodeAt (at_ 253 [0xA2, 0x07, 0x08]) 0b10100010 := by
  refine ⟨⟨?_, ?_, ?_, ?_⟩, ⟨?_, ?_, ?_, ?_⟩, ⟨?_, ?_, ?_, ?_⟩, ⟨?_, ?_, ?_, ?_⟩, ⟨?_, ?_, ?_, ?_⟩⟩ <;>
    decide +kernel
theorem test_witness_PushStepRule :
    opcodeAt (at_ 255 [0x45]) 0b01000101 ∧ opcodeAt (at_ 254 [0x45, 0x07]) 0b01000101 ∧
      opcodeAt (at_ 254 [0x45, 0x08]) 0b01000101 := by
  refine ⟨⟨?_, ?_, ?_, ?_⟩, ⟨?_, ?_, ?_, ?_⟩, ⟨?_, ?_, ?_, ?_⟩⟩ <;> decide +kernel
theorem test_witness_PopStepRule :
    opcodeAt (at_ 255 [0x46]) 0b01000110 ∧ opcodeAt (at_ 254 [0x46, 0x07]) 0b01000110 ∧
      opcodeAt (at_ 254 [0x46, 0x08]) 0b01000110 := by
  refine ⟨⟨?_, ?_, ?_, ?_⟩, ⟨?_, ?_, ?_, ?_⟩, ⟨?_, ?_, ?_, ?_⟩⟩ <;> decide +kernel
theorem test_witness_UnknownOpcodeStepRule :
    opcodeAt (at_ 255 [0x00]) 0x00 ∧ (0x00#8) ∉ [0x01#8, 0x82#8, 0x47#8, 0xA2#8, 0x45#8, 0x46#8] := by
  refine ⟨⟨?_, ?_, ?_, ?_⟩, ?_⟩ <;> decide +kernel
theorem test_witness_OpcodeFetchOutOfRangeFaults :
    (at_ 256 []).ready = true ∧ (at_ 256 []).run = .running ∧ 256 ≤ (at_ 256 []).pc.toNat := by decide +kernel
theorem test_witness_SequentialControlFlow :
    Instr.mul 7 7 ≠ .halt ∧ (Instr.mul 7 7).wellFormed = true := by decide
theorem test_witness_RegisterIndexRule :
    8 ≤ (8#8).toNat ∧ (7#8).toNat < 8 ∧ ((2#8) = 1#8 ∨ (2#8) = 2#8) := by decide
theorem test_witness_IllegalRegisterTraps :
    8 ≤ (8#8).toNat ∧ (7#8).toNat < 8 := by decide
/-- Each fault of the priority list, and none. -/
theorem test_witness_FaultPriority :
    firstFault (at_ 256 []) = some (.memOutOfRange 256) ∧
      firstFault (at_ 255 [0x02]) = some (.unknownOpcode 0x02) ∧
      firstFault (at_ 255 [0x47]) = some (.memOutOfRange 256) ∧
      firstFault (at_ 254 [0xA2, 0x09]) = some (.memOutOfRange 256) ∧
      firstFault (at_ 253 [0xA2, 0x08, 0x09]) = some (.illegalRegister 1 8) ∧
      firstFault (at_ 253 [0xA2, 0x07, 0x08]) = some (.illegalRegister 2 8) ∧
      firstFault (at_ 255 [0x01]) = none := by decide +kernel
theorem test_witness_FaultsArePrecise :
    step (at_ 0 []) = .next (after (at_ 0 [])) ∧ (after (at_ 0 [])).run = .faulted := by
  constructor
  · rfl
  · decide +kernel
theorem test_witness_UnsupportedAluOpUnreachable :
    (at_ 0 []).faultCode ≠ 0x04 ∧ step (at_ 0 []) = .next (after (at_ 0 [])) := by
  constructor
  · decide
  · rfl
theorem test_witness_RegisterWritingFrame :
    (∃ t, exec (.ldi 7 1) State.reset = .next t) ∧ (∃ t, exec (.mul 7 7) State.reset = .next t) ∧
      (∃ t, exec (.ldi 8 1) State.reset = .next t) := ⟨⟨_, rfl⟩, ⟨_, rfl⟩, ⟨_, rfl⟩⟩
theorem test_witness_HaltPrintFrame :
    (∃ t, exec .halt State.reset = .next t) ∧ (∃ t, exec (.prn 7) State.reset = .next t) ∧
      (∃ t, exec (.prn 8) State.reset = .next t) := ⟨⟨_, rfl⟩, ⟨_, rfl⟩, ⟨_, rfl⟩⟩
theorem test_witness_PushFrame :
    (∃ t, exec (.push 7) State.reset = .next t) ∧ pushAddr State.reset = 0xF3 := ⟨⟨_, rfl⟩, by decide⟩
theorem test_witness_PopFrame : ∃ t, exec (.pop 7) State.reset = .next t := ⟨_, rfl⟩
theorem test_witness_AluSignedReading :
    alu 0b00 0x80 0x80 = .ok 0 ∧ alu 0b01 0x80 0x01 = .ok 0x7F ∧ alu 0b10 0xFF 0xFF = .ok 1 := by decide
theorem test_witness_PushPopBalanced :
    ((6 : Fin 8) ≠ 7 ∧ (0 : Fin 8) ≠ 7) ∧ ((7 : Fin 8) = 7 ∨ (0 : Fin 8) = 7) := by decide
theorem test_witness_PushIsSeenByFetch :
    (7#8).toNat < 8 ∧ (∃ t, exec (.push 7) State.reset = .next t) ∧ (255#16).toNat < 256 :=
  ⟨by decide, ⟨_, rfl⟩, by decide⟩
theorem test_witness_EncodeDecodeAgree :
    decode [0x82, 0xFF, 0x00, 0x2A] = .ok (.ldi 0xFF 0x00, [0x2A]) := by decide
theorem test_witness_IllegalOpcodesRefused :
    (0xFF#8) ∉ [0x01#8, 0x82#8, 0x47#8, 0xA2#8, 0x45#8, 0x46#8] := by decide
/-- A run state left by HALT, one left by a fault, one left by a start. -/
theorem test_witness_RunStateTransitions :
    (step (at_ 255 [0x01]) = .next (after (at_ 255 [0x01])) ∧
      (after (at_ 255 [0x01])).run ≠ (at_ 255 [0x01]).run) ∧
    (step (at_ 0 []) = .next (after (at_ 0 [])) ∧ (after (at_ 0 [])).run ≠ (at_ 0 []).run) ∧
    (HostAction.start.apply State.reset).run ≠ State.reset.run := by
  refine ⟨⟨rfl, ?_⟩, ⟨rfl, ?_⟩, ?_⟩ <;> decide +kernel
theorem test_witness_OnlyHaltHalts :
    ∃ t, exec .halt State.reset = .next t ∧ State.reset.run ≠ .halted ∧ t.run = .halted :=
  ⟨_, rfl, by decide, rfl⟩
theorem test_witness_OutputOnlyByPrintReg :
    step (at_ 0 [0x47, 0x07]) = .next (after (at_ 0 [0x47, 0x07])) ∧
      (after (at_ 0 [0x47, 0x07])).out ≠ (at_ 0 [0x47, 0x07]).out := by
  constructor
  · rfl
  · decide +kernel
theorem test_witness_RecordInvisibleToPrograms :
    (at_ 0 [0x01]).programView = { at_ 0 [0x01] with ir := 9, faultCode := 2, out := [1] }.programView ∧
      step (at_ 0 [0x01]) = .next (after (at_ 0 [0x01])) := ⟨rfl, rfl⟩
theorem test_witness_StepKeepsInvariant :
    (at_ 0 [0x01]).Inv ∧ step (at_ 0 [0x01]) = .next (after (at_ 0 [0x01])) := by
  refine ⟨⟨by decide, by decide, rfl, ?_, by decide, by decide⟩, rfl⟩
  refine ⟨?_, ?_, ?_, ?_⟩ <;> decide
theorem test_witness_HostActionKeepsInvariant : State.reset.Inv :=
  ⟨rfl, by decide, rfl, ⟨rfl, rfl, rfl, rfl⟩, by decide, by decide⟩
theorem test_witness_EveryRunEnds :
    (at_ 0 [0x47, 0x00]).ready = true ∧ (at_ 0 [0x47, 0x00]).run = .running ∧
      runBound (at_ 0 [0x47, 0x00]).pc.toNat = 129 := by decide +kernel
theorem test_witness_StartRule :
    State.reset.ready = true ∧ State.reset.run = .idle ∧ (at_ 0 []).ready = true ∧
      (at_ 0 []).run = .running := by decide
theorem test_witness_FaultedLeftOnlyByReset :
    (after (at_ 0 [])).ready = true ∧ (after (at_ 0 [])).run = .faulted ∧ HostAction.start ≠ .reset := by
  decide +kernel
theorem test_witness_HostActionFrame :
    (at_ 0 []).run = .running ∧ HostAction.load [1] ≠ .start := by decide
/-- Both lengths at the boundary, and both load statuses that forbid a start. -/
theorem test_witness_LoadRule :
    State.reset.ready = true ∧ State.reset.run ≠ .running ∧ (List.replicate 256 0).length ≤ 256 ∧
      256 < (List.replicate 257 0).length ∧ LoadStatus.failed ≠ .clean ∧
      LoadStatus.awaitingLoad.after (.load [1]) = .clean ∧ HostAction.start ≠ .reset := by decide +kernel
theorem test_witness_ProgramFileCommentsIgnored :
    ∀ l ∈ [['#', 'x'], [], ['1', ' ', '#']], '\n' ∉ l := by decide
/-- Whitespace around, and a text for each clause: digits, another character, digits with whitespace
inside, none. -/
theorem test_witness_ProgramFileLineRule :
    (∀ c ∈ [' '] ++ ['\r'], c = ' ' ∨ c = '\t' ∨ c = '\r') ∧
      (['1', '0'] ≠ [] ∧ ∀ c ∈ ['1', '0'], c = '0' ∨ c = '1') ∧
      ('b' ∈ ['0', 'b', '1'] ∧ 'b' ∉ ['0', '1', '#', ' ', '\t', '\r'] ∧ '#' ∉ ['0', 'b', '1']) ∧
      (['1', ' ', '0'] = '1' :: ([' '] ++ ['0']) ∧ (∃ c ∈ [' '], c = ' ' ∨ c = '\t' ∨ c = '\r') ∧
        '#' ∉ ['1', ' ', '0']) := by
  refine ⟨by simp, ⟨by simp, by simp⟩, ⟨by simp, by simp, by simp⟩, by simp, by simp, by simp⟩
/-- R63: whitespace inside the digits, a line of whitespace, a comment-only line. -/
theorem test_line_skipped :
    lineValue ['1', ' ', '0'] = none ∧ lineValue [' ', '\t', '\r'] = none ∧
      lineValue [' ', '#', '1'] = none := by decide
/-- The trace at the last pc whose three bytes exist, and at the first whose last byte is absent. -/
theorem test_witness_HostObservation :
    State.reset.ready = true ∧ State.reset.run ≠ .running ∧ (at_ 0 []).run = .running ∧
      ({ State.reset with pc := 253 }.traceData.map TraceData.bytes) = some [some 0, some 0, some 0] ∧
      ({ State.reset with pc := 254 }.traceData.map TraceData.bytes) = some [some 0, some 0, none] ∧
      ({ State.reset with pc := 65535 }.traceData.map TraceData.bytes) = some [none, none, none] := by decide
theorem test_witness_AssemblyRoundTrip : (Instr.mul 0 7).wellFormed = true := by decide

end Sys2Proof.Machine.Tests
end

section
/-! PROOFS. The statements of spec/10_state.md: the value of the state after reset, what a step does to
the run state and to `OUT`, the invariant of the block, and what no program can see. The first parts are
the shared facts; the statements are settled from them. -/

namespace Sys2Proof.Machine

/-! ### The fields through a completed instruction -/

/-- HALT alone changes the run state (41_control R120). -/
theorem execResult_run_of_ne_halt {i : Instr} (h : i ≠ .halt) (s : State) :
    (execResult i s).run = s.run := by
  cases i with
  | halt => exact absurd rfl h
  | ldi r v => rfl
  | prn r => rfl
  | mul a b => rfl
  | push r => rfl
  | pop r => rfl

/-- Every instruction but HALT leaves `pc + len` (40_fetch_decode R106). -/
theorem execResult_pc_of_ne_halt {i : Instr} (h : i ≠ .halt) (s : State) :
    (execResult i s).pc = pcPlus s.pc i.length := by
  cases i with
  | halt => exact absurd rfl h
  | ldi r v => rfl
  | prn r => rfl
  | mul a b => rfl
  | push r => rfl
  | pop r => rfl

/-- A completed instruction does not touch the fault record (10_state R28). -/
theorem execResult_sameFaultRecord (i : Instr) (s : State) : SameFaultRecord s (execResult i s) := by
  cases i <;> exact ⟨rfl, rfl, rfl, rfl⟩

/-- The value PRINT_REG emits has been taken by the end of the instruction (42_register_io R133). -/
theorem execResult_pendingOut {s : State} (h : s.pendingOut = none) (i : Instr) :
    (execResult i s).pendingOut = none := by
  cases i with
  | prn r => rfl
  | halt => exact h
  | ldi r v => exact h
  | mul a b => exact h
  | push r => exact h
  | pop r => exact h

/-- PRINT_REG alone appends to `OUT` (10_state R29, 42_register_io R134). -/
theorem execResult_out (i : Instr) (s : State) :
    (execResult i s).out = s.out ∨
      ∃ r, i = .prn r ∧ (execResult i s).out = s.out ++ [s.getReg (lowIndex r)] := by
  cases i with
  | prn r => exact .inr ⟨r, rfl, rfl⟩
  | halt => exact .inl rfl
  | ldi r v => exact .inl rfl
  | mul a b => exact .inl rfl
  | push r => exact .inl rfl
  | pop r => exact .inl rfl

/-- PUSH alone writes memory, at an address below 256 (44_stack R162, R165). -/
theorem execResult_mem_wf {s : State} (h : s.mem.wf = true) (i : Instr) :
    (execResult i s).mem.wf = true := by
  cases i with
  | push r =>
    have haddr : pushAddr s < memSize := by
      rw [pushAddr, dataAddr_toNat]
      exact byte_lt_memSize _
    exact Memory.wf_write h haddr _
  | halt => exact h
  | ldi r v => exact h
  | prn r => exact h
  | mul a b => exact h
  | pop r => exact h

theorem instr_length_le_three (i : Instr) : i.length ≤ 3 := by
  cases i <;> simp [Instr.length]

/-! ### One step with `ready = 1` -/

theorem fetchInstr_opcode {s : State} {op : Byte} {i : Instr} (h : s.fetchInstr op = .ok i) :
    i.opcode = op :=
  decodeOperands_opcode h

/-- The fault codes a program can reach: all but UnsupportedAluOp's (60_exceptions R181, 43_alu R145). -/
def ReachableCode (code : Byte) : Prop := code = 0x01#8 ∨ code = 0x02#8 ∨ code = 0x03#8

theorem ReachableCode.ne_zero {code : Byte} (h : ReachableCode code) : code ≠ 0#8 := by
  rcases h with rfl | rfl | rfl <;> decide

theorem memOutOfRange_reachable (a : Word) : ReachableCode (FaultCause.memOutOfRange a).code :=
  .inr (.inl rfl)

theorem illegalRegister_reachable (p b : Byte) : ReachableCode (FaultCause.illegalRegister p b).code :=
  .inr (.inr rfl)

theorem fetchInstr_error_reachable {s : State} {op : Byte} {c : FaultCause}
    (h : s.fetchInstr op = .error c) : ReachableCode c.code := by
  rcases fetchInstr_error h with ⟨rfl, -⟩ | ⟨a, rfl⟩
  · exact .inl rfl
  · exact memOutOfRange_reachable a

/-- What a step with `ready = 1` does from `s`, by how far it comes: it executes nothing, its opcode
fetch faults, a later check faults, or its instruction completes (40_fetch_decode R100 to R105). -/
inductive ReadyStep (s : State) : State → Prop
  | idles (hrun : s.run ≠ .running) : ReadyStep s s
  | opcodeFetchFaults (hrun : s.run = .running) :
      ReadyStep s (s.raiseAtFetch (.memOutOfRange s.pc))
  | laterCheckFaults (hrun : s.run = .running) (c : FaultCause) (hc : ReachableCode c.code) :
      ReadyStep s ((s.setIr (s.mem.read s.pc.toNat)).raise c)
  | completes (hrun : s.run = .running) (hpc : s.pc.toNat < memSize) (i : Instr)
      (hop : i.opcode = s.mem.read s.pc.toNat) :
      ReadyStep s (execResult i (s.setIr (s.mem.read s.pc.toNat)))

theorem readyStep_of_step {s t : State} (hr : s.ready = true) (h : step s = .next t) :
    ReadyStep s t := by
  rcases step_cases h with ⟨hnr, -⟩ | ⟨-, hrun, rfl⟩ | ⟨-, hrun, -, rfl⟩ |
    ⟨-, hrun, -, c, hc, rfl⟩ | ⟨-, hrun, hpc, i, hi, hx⟩
  · simp [hr] at hnr
  · exact .idles hrun
  · exact .opcodeFetchFaults hrun
  · exact .laterCheckFaults hrun c (fetchInstr_error_reachable hc)
  · rcases exec_cases hx with ⟨-, rfl⟩ | ⟨-, p, b, rfl⟩
    · exact .completes hrun hpc i (fetchInstr_opcode hi)
    · exact .laterCheckFaults hrun _ (illegalRegister_reachable p b)

/-! ### What a program cannot see -/

/-- A fault shows a program no more than that the block is FAULTED. -/
theorem raise_programView (s : State) (c : FaultCause) :
    (s.raise c).programView = s.programView.setRun .faulted := rfl

/-- No instruction reads what the program view leaves out. -/
theorem execResult_programView (i : Instr) (s : State) :
    (execResult i s.programView).programView = (execResult i s).programView := by
  cases i <;> rfl

theorem execResult_programView_congr {s s' : State} (h : s.programView = s'.programView) (i : Instr) :
    (execResult i s).programView = (execResult i s').programView := by
  rw [← execResult_programView i s, h, execResult_programView]

/-- One instruction from two states with one program view. -/
theorem exec_programView_congr {i : Instr} {s s' t t' : State} (hv : s.programView = s'.programView)
    (h : exec i s = .next t) (h' : exec i s' = .next t') : t.programView = t'.programView := by
  rcases exec_cases h with ⟨hw, rfl⟩ | ⟨hw, p, b, rfl⟩ <;>
    rcases exec_cases h' with ⟨hw', rfl⟩ | ⟨hw', p', b', rfl⟩
  · exact execResult_programView_congr hv i
  · simp [hw] at hw'
  · simp [hw] at hw'
  · rw [raise_programView, raise_programView, hv]

theorem exec_answers_next (i : Instr) (s : State) : ∃ t, exec i s = .next t := by
  cases hw : i.wellFormed with
  | true => exact ⟨_, exec_wellFormed hw s⟩
  | false =>
    obtain ⟨p, b, hx⟩ := exec_illFormed hw s
    exact ⟨_, hx⟩

theorem runStep_of_fetchInstr_error {s : State} {c : FaultCause} (hpc : s.pc.toNat < memSize)
    (hc : (s.setIr (s.mem.read s.pc.toNat)).fetchInstr (s.mem.read s.pc.toNat) = .error c) :
    runStep s = .next ((s.setIr (s.mem.read s.pc.toNat)).raise c) := by
  rw [runStep_inRange hpc, hc]

theorem runStep_of_fetchInstr_ok {s : State} {i : Instr} (hpc : s.pc.toNat < memSize)
    (hi : (s.setIr (s.mem.read s.pc.toNat)).fetchInstr (s.mem.read s.pc.toNat) = .ok i) :
    runStep s = exec i (s.setIr (s.mem.read s.pc.toNat)) := by
  rw [runStep_inRange hpc, hi]

/-- The view of a running block runs. -/
theorem step_programView_running {s : State} (hr : s.ready = true) (hrun : s.run = .running) :
    step s.programView = runStep s.programView :=
  step_running hr hrun

/-- The commuting square of `step` and `programView`: the step of the view answers the view of the
step. The fetches read memory and the pc alone, which the view keeps. -/
theorem step_programView {s t : State} (h : step s = .next t) :
    ∃ u, step s.programView = .next u ∧ u.programView = t.programView := by
  rcases step_cases h with ⟨hr, rfl⟩ | ⟨hr, hrun, rfl⟩ | ⟨hr, hrun, hpc, rfl⟩ |
    ⟨hr, hrun, hpc, c, hc, rfl⟩ | ⟨hr, hrun, hpc, i, hi, hx⟩
  · exact ⟨_, step_notReady hr, rfl⟩
  · exact ⟨_, step_stopped hr hrun, rfl⟩
  · exact ⟨_, (step_programView_running hr hrun).trans (runStep_outOfRange hpc), rfl⟩
  · exact ⟨_, (step_programView_running hr hrun).trans (runStep_of_fetchInstr_error hpc hc), rfl⟩
  · obtain ⟨u, hu⟩ := exec_answers_next i (s.programView.setIr (s.mem.read s.pc.toNat))
    have hstep : step s.programView = .next u :=
      (step_programView_running hr hrun).trans
        ((runStep_of_fetchInstr_ok (s := s.programView) hpc hi).trans hu)
    have hfetched : (s.programView.setIr (s.mem.read s.pc.toNat)).programView =
      (s.setIr (s.mem.read s.pc.toNat)).programView := rfl
    exact ⟨u, hstep, exec_programView_congr hfetched hu hx⟩

/-- Settles O42: both steps have the view that the step of the common view has. -/
theorem recordInvisibleToPrograms : Obligations.RecordInvisibleToPrograms := by
  unfold Obligations.RecordInvisibleToPrograms
  intro s s' t t' hv h h'
  obtain ⟨u, hu, hut⟩ := step_programView h
  obtain ⟨u', hu', hut'⟩ := step_programView h'
  have huu' : u = u' := by
    rw [hv, hu'] at hu
    exact (Host.Outcome.next.inj hu).symm
  rw [← hut, ← hut', huu']

/-! ### The invariant through the operations of a step -/

theorem State.faultRecordInv_iff_of_ne_faulted {s : State} (h : s.run ≠ .faulted) :
    s.FaultRecordInv ↔ s.faultCode = 0#8 ∧ s.faultPc = 0#16 ∧ s.faultIr = 0#8 ∧ s.faultInfo = 0#16 := by
  rw [State.FaultRecordInv, if_neg h]

theorem State.faultRecordInv_iff_of_faulted {s : State} (h : s.run = .faulted) :
    s.FaultRecordInv ↔
      ReachableCode s.faultCode ∧ s.faultPc = s.pc ∧ (s.faultCode ≠ 0x02#8 → s.faultIr = s.ir) := by
  rw [State.FaultRecordInv, if_pos h, ReachableCode]

/-- Outside FAULTED a change of fields that leaves the fault record, and ends outside FAULTED, keeps
the record's part of the invariant. -/
theorem State.FaultRecordInv.of_same {s t : State} (h : s.FaultRecordInv) (hs : s.run ≠ .faulted)
    (ht : t.run ≠ .faulted) (hrec : SameFaultRecord s t) : t.FaultRecordInv := by
  rw [State.faultRecordInv_iff_of_ne_faulted hs] at h
  rwa [State.faultRecordInv_iff_of_ne_faulted ht, hrec.code, hrec.pc, hrec.ir, hrec.info]

/-- The write of `IR` in a running block. -/
theorem State.Inv.setIr {s : State} (h : s.Inv) (hrun : s.run = .running) (op : Byte) :
    (s.setIr op).Inv := by
  have hne : s.run ≠ .faulted := by simp [hrun]
  have hhalted : s.run ≠ .halted := by simp [hrun]
  exact ⟨h.memory, h.pcBound, h.portIdle, h.faultRecord.of_same hne hne ⟨rfl, rfl, rfl, rfl⟩, h.idle,
    fun hr => absurd hr hhalted⟩

/-- Entering a reachable fault; `FAULT_IR` is `IR`, or anything where the cause is MemOutOfRange. -/
theorem State.Inv.enterFault {s : State} (h : s.Inv) {c : FaultCause} (hc : ReachableCode c.code)
    {w : Byte} (hw : c.code ≠ 0x02#8 → w = s.ir) : (s.enterFault c w).Inv where
  memory := h.memory
  pcBound := h.pcBound
  portIdle := h.portIdle
  faultRecord := (State.faultRecordInv_iff_of_faulted rfl).2 ⟨hc, rfl, hw⟩
  idle hr := nomatch hr
  halted hr := nomatch hr

theorem State.Inv.raise {s : State} (h : s.Inv) {c : FaultCause} (hc : ReachableCode c.code) :
    (s.raise c).Inv :=
  h.enterFault hc fun _ => rfl

theorem State.Inv.raiseAtFetch {s : State} (h : s.Inv) (a : Word) :
    (s.raiseAtFetch (.memOutOfRange a)).Inv := by
  obtain ⟨hmem, hpc, hport, hrec, hidle, hhalted⟩ :=
    h.enterFault (memOutOfRange_reachable a) (w := Config.freeByte s.draws) fun hne => absurd rfl hne
  exact ⟨hmem, hpc, hport, hrec, hidle, hhalted⟩

/-- HALT in a running block whose `IR` holds HALT's opcode. -/
theorem State.Inv.execResult_halt {s : State} (h : s.Inv) (hrun : s.run = .running)
    (hir : s.ir = opHalt) : (execResult .halt s).Inv where
  memory := h.memory
  pcBound := by
    show (haltPc s).toNat ≤ 258
    unfold haltPc
    split
    · decide
    · exact h.pcBound
  portIdle := h.portIdle
  faultRecord := h.faultRecord.of_same (by simp [hrun]) (fun hr => nomatch hr) ⟨rfl, rfl, rfl, rfl⟩
  idle hr := nomatch hr
  halted _ := ⟨hir, fun hz => if_pos hz⟩

/-- Any other instruction, from a pc its opcode could be fetched at: the block is still RUNNING. -/
theorem State.Inv.execResult_of_ne_halt {s : State} (h : s.Inv) (hrun : s.run = .running)
    (hpc : s.pc.toNat < memSize) {i : Instr} (hi : i ≠ .halt) : (execResult i s).Inv := by
  have hrun' : (execResult i s).run = .running := (execResult_run_of_ne_halt hi s).trans hrun
  exact {
    memory := execResult_mem_wf h.memory i
    pcBound := by
      rw [execResult_pc_of_ne_halt hi, pcPlus_toNat hpc (instr_length_le_three i)]
      have := instr_length_le_three i
      simp only [memSize] at hpc
      omega
    portIdle := execResult_pendingOut h.portIdle i
    faultRecord := h.faultRecord.of_same (by simp [hrun]) (by simp [hrun'])
      (execResult_sameFaultRecord i s)
    idle := by simp [hrun']
    halted := by simp [hrun'] }

theorem State.Inv.execResult {s : State} (h : s.Inv) (hrun : s.run = .running)
    (hpc : s.pc.toNat < memSize) {i : Instr} (hir : s.ir = i.opcode) : (execResult i s).Inv := by
  by_cases hi : i = .halt
  · subst hi
    exact h.execResult_halt hrun hir
  · exact h.execResult_of_ne_halt hrun hpc hi

theorem State.resetWith_inv (c : Config.Params) (d : Nat) : (State.resetWith c d).Inv where
  memory := rfl
  pcBound := Nat.zero_le 258
  portIdle := rfl
  faultRecord := (State.faultRecordInv_iff_of_ne_faulted (by simp)).2 ⟨rfl, rfl, rfl, rfl⟩
  idle _ := ⟨rfl, rfl⟩
  halted hr := nomatch hr

/-- A step with `ready = 1` keeps the invariant, however far it comes. -/
theorem State.Inv.readyStep {s t : State} (h : s.Inv) (hst : ReadyStep s t) : t.Inv := by
  cases hst with
  | idles hrun => exact h
  | opcodeFetchFaults hrun => exact h.raiseAtFetch s.pc
  | laterCheckFaults hrun c hc => exact (h.setIr hrun _).raise hc
  | completes hrun hpc i hop => exact (h.setIr hrun (s.mem.read s.pc.toNat)).execResult hrun hpc hop.symm

/-- Settles O44: the end of a reset sequence establishes the invariant, any other step keeps it. -/
theorem stepKeepsInvariant : Obligations.StepKeepsInvariant := by
  unfold Obligations.StepKeepsInvariant
  intro s t hs h
  cases hr : s.ready with
  | false =>
    rw [step_notReady hr] at h
    obtain rfl := Host.Outcome.next.inj h
    exact State.resetWith_inv s.cfg s.draws
  | true => exact hs.readyStep (readyStep_of_step hr h)

/-- Settles O43: the values of spec/10_state.md R36 meet every part of the invariant. -/
theorem resetMeetsInvariant : Obligations.ResetMeetsInvariant := by
  unfold Obligations.ResetMeetsInvariant
  exact ⟨State.resetWith_inv defaultParams 0, State.resetWith_inv⟩

/-! ### The run state and `OUT` -/

/-- A step with `ready = 1` that changes the run state halts or faults a running block. -/
theorem ReadyStep.run_changed {s t : State} (h : ReadyStep s t) (hne : t.run ≠ s.run) :
    s.run = .running ∧
      ((t.run = .halted ∧ s.mem.read s.pc.toNat = opHalt) ∨
        (t.run = .faulted ∧ t.faultCode ≠ 0#8)) := by
  cases h with
  | idles hrun => exact absurd rfl hne
  | opcodeFetchFaults hrun => exact ⟨hrun, .inr ⟨rfl, (memOutOfRange_reachable s.pc).ne_zero⟩⟩
  | laterCheckFaults hrun c hc => exact ⟨hrun, .inr ⟨rfl, hc.ne_zero⟩⟩
  | completes hrun hpc i hop =>
    by_cases hi : i = .halt
    · subst hi
      exact ⟨hrun, .inl ⟨rfl, hop.symm⟩⟩
    · exact absurd (execResult_run_of_ne_halt hi _) hne

theorem State.loaderWrite_run (s : State) (addr data : Byte) : (s.loaderWrite addr data).run = s.run := by
  unfold State.loaderWrite
  split <;> rfl

theorem loadFrom_run (bytes : List Nat) : ∀ (s : State) (addr : Nat), (loadFrom s addr bytes).run = s.run := by
  induction bytes with
  | nil => intro s addr; rfl
  | cons b bs ih =>
    intro s addr
    rw [loadFrom, ih, State.loaderWrite_run]

theorem State.load_run (s : State) (bytes : List Nat) : (s.load bytes).state.run = s.run := by
  unfold State.load
  split
  · show (if s.loaderOpen then s.scrambleMem else s).run = s.run
    split <;> rfl
  · exact loadFrom_run bytes s 0

/-- A start either is ignored or takes an IDLE or HALTED block to RUNNING (10_state R35). -/
theorem State.start_cases (s : State) :
    s.start = s ∨ ((s.run = .idle ∨ s.run = .halted) ∧ s.start = s.setRun .running) := by
  by_cases h : s.ready = true ∧ (s.run = .idle ∨ s.run = .halted)
  · exact .inr ⟨h.2, if_pos h⟩
  · exact .inl (if_neg h)

/-- Of the host's actions a start alone changes the run state at once. -/
theorem HostAction.apply_run_changed {s : State} {a : HostAction} (hne : (a.apply s).run ≠ s.run) :
    a = .start ∧ (s.run = .idle ∨ s.run = .halted) ∧ (a.apply s).run = .running := by
  cases a with
  | reset => exact absurd rfl hne
  | start =>
    rcases s.start_cases with hs | ⟨hrun, hs⟩
    · exact absurd (congrArg State.run hs) hne
    · exact ⟨rfl, hrun, congrArg State.run hs⟩
  | loaderWrite addr data => exact absurd (s.loaderWrite_run addr data) hne
  | load bytes => exact absurd (s.load_run bytes) hne

/-- Settles O39, from what one step and what one host action can do to the run state. -/
theorem runStateTransitions : Obligations.RunStateTransitions := by
  unfold Obligations.RunStateTransitions
  exact ⟨fun _ _ hr h hne => (readyStep_of_step hr h).run_changed hne,
    fun _ _ hne => HostAction.apply_run_changed hne⟩

theorem ReadyStep.out_cases {s t : State} (h : ReadyStep s t) :
    t.out = s.out ∨
      (s.run = .running ∧ s.mem.read s.pc.toNat = opPrn ∧ ∃ r : Fin 8, t.out = s.out ++ [s.getReg r]) := by
  cases h with
  | idles hrun => exact .inl rfl
  | opcodeFetchFaults hrun => exact .inl rfl
  | laterCheckFaults hrun c hc => exact .inl rfl
  | completes hrun hpc i hop =>
    rcases execResult_out i (s.setIr (s.mem.read s.pc.toNat)) with hout | ⟨r, rfl, hout⟩
    · exact .inl hout
    · exact .inr ⟨hrun, hop.symm, lowIndex r, hout⟩

/-- Settles O41: of what a step can do, completing a PRINT_REG alone appends to `OUT`. -/
theorem outputOnlyByPrintReg : Obligations.OutputOnlyByPrintReg := by
  unfold Obligations.OutputOnlyByPrintReg
  exact fun _ _ hr h => (readyStep_of_step hr h).out_cases

/-! ### The value of the state after reset -/

theorem State.resetWith_getReg (c : Config.Params) (d : Nat) (i : Fin 8) :
    (State.resetWith c d).getReg i = if i = spIndex then c.spReset else 0#8 := by
  by_cases h : i = spIndex
  · subst h
    rfl
  · have hval : 7 ≠ i.val := fun hv => h (Fin.ext hv.symm)
    simp [State.getReg, h, Vector.getElem_set_ne, hval]

/-- Settles O47: the registers by `State.resetWith_getReg`, memory by the default a cell that is not
listed reads as, every other field by its value in `State.resetWith`. -/
theorem resetState : Obligations.ResetState := by
  unfold Obligations.ResetState
  refine ⟨fun c d => ⟨fun a _ => Memory.read_nil a, fun i hi => ?_, State.resetWith_getReg c d 7, rfl, rfl,
    rfl, rfl, rfl, rfl, rfl, rfl, rfl, rfl⟩, 0, rfl⟩
  have hne : i ≠ spIndex := fun h => by simp [h, spIndex] at hi
  rw [State.resetWith_getReg, if_neg hne]

end Sys2Proof.Machine
end

section
/-! PROOFS. The statements of spec/20_memory.md: what a fetch reads after a PUSH, what a `load` writes,
what a program file gives, and what the host's ports show. -/

namespace Sys2Proof.Machine

/-! ### A PUSH and the fetches after it (R65, R68) -/

theorem pushAddr_eq (s : State) : pushAddr s = (s.sp - 1#8).toNat := by
  rw [pushAddr, dataAddr_toNat, spDec_eq]

/-- PUSH leaves the register file of the decrement, whose content it stored. -/
theorem execResult_push_getReg (r : Byte) (s : State) :
    (execResult (.push r) s).getReg (lowIndex r) = pushValue s (lowIndex r) := rfl

theorem execResult_push_read (r : Byte) (s : State) (a : Nat) :
    (execResult (.push r) s).mem.read a =
      if a = pushAddr s then pushValue s (lowIndex r) else s.mem.read a :=
  Memory.read_write s.mem (pushAddr s) a _

/-- Settles O33: a fetch in range reads memory (`fetch_of_lt`), which a PUSH changes only at
`pushAddr`, to the content its register has afterwards. -/
theorem pushIsSeenByFetch : Obligations.PushIsSeenByFetch := by
  unfold Obligations.PushIsSeenByFetch
  intro r s t addr hr hexec haddr
  have hwf : (Instr.push r).wellFormed = true := (validRegByte_iff r).2 hr
  rw [exec_wellFormed hwf] at hexec
  obtain rfl : execResult (.push r) s = t := by simpa using hexec
  rw [fetch_of_lt _ haddr, execResult_push_read, execResult_push_getReg, pushAddr_eq]

/-! ### The host's ports (10_state R35, R69, 60_exceptions R194) -/

theorem State.debugValid_of_stopped {s : State} (hr : s.ready = true) (h : s.run ≠ .running) :
    s.debugValid = true := by
  simp [State.debugValid, hr, h]

/-- Settles O56: the state port by the cases of the run state, the debug ports and the trace by
`State.debugValid_of_stopped`, which opens each of them. -/
theorem hostObservation : Obligations.HostObservation := by
  unfold Obligations.HostObservation
  intro s
  constructor
  · show s.run.encoding = _
    cases s.run <;> rfl
  · intro hr hrun
    have hv := State.debugValid_of_stopped hr hrun
    exact ⟨fun _ => if_pos hv, fun _ => if_pos hv, if_pos hv, if_pos hv, _, if_pos hv, rfl, rfl, rfl⟩

/-! ### `load` (R53, R62) -/

theorem State.loaderOpen_of_stopped {s : State} (hr : s.ready = true) (h : s.run ≠ .running) :
    s.loaderOpen = true := by
  simp [State.loaderOpen, hr, h]

theorem State.loaderWrite_of_open {s : State} (h : s.loaderOpen = true) (addr data : Byte) :
    s.loaderWrite addr data = s.setMem (s.mem.write addr.toNat data) := if_pos h

/-- What is stored from `a` on is read back from `a` on, up to the end of memory, and every other
address keeps its byte. -/
theorem storeBytes_read (bs : List Byte) : ∀ (m : Memory) (a b : Nat), a + bs.length ≤ memSize →
    (storeBytes m a bs).read b = if a ≤ b then bs[b - a]?.getD (m.read b) else m.read b := by
  induction bs with
  | nil => intro m a b _; simp [storeBytes]
  | cons v bs ih =>
    intro m a b hlen
    rw [List.length_cons] at hlen
    rw [storeBytes, if_pos (by omega), ih _ _ _ (by omega), Memory.read_write]
    rcases lt_trichotomy b a with hlt | rfl | hgt
    · simp [Nat.not_le.2 hlt, show ¬ a + 1 ≤ b by omega, hlt.ne]
    · simp
    · obtain ⟨k, rfl⟩ : ∃ k, b = a + 1 + k := ⟨b - (a + 1), by omega⟩
      simp [show a + 1 + k - a = k + 1 by omega, show a + 1 + k ≠ a by omega,
        show a ≤ a + 1 + k by omega]

/-- Through an open loader port `load` stores its values, each as a byte, while they fit. -/
theorem loadFrom_eq_storeBytes (bytes : List Nat) : ∀ (s : State) (addr : Nat),
    s.loaderOpen = true → addr + bytes.length ≤ memSize →
      loadFrom s addr bytes = s.setMem (storeBytes s.mem addr (bytes.map (BitVec.ofNat 8))) := by
  induction bytes with
  | nil => intro s addr _ _; rfl
  | cons b bs ih =>
    intro s addr hopen hlen
    rw [List.length_cons] at hlen
    have haddr : addr < memSize := by omega
    have hnat : (BitVec.ofNat 8 addr).toNat = addr := by
      rw [BitVec.toNat_ofNat]
      exact Nat.mod_eq_of_lt haddr
    have hopen' : ∀ m, (s.setMem m).loaderOpen = true := fun _ => hopen
    rw [loadFrom, State.loaderWrite_of_open hopen, hnat, ih _ _ (hopen' _) (by omega), List.map_cons,
      storeBytes, if_pos haddr]
    rfl

theorem State.load_of_fits {s : State} {bytes : List Nat} (hopen : s.loaderOpen = true)
    (h : bytes.length ≤ memSize) :
    s.load bytes = .loaded (s.setMem (storeBytes s.mem 0 (bytes.map (BitVec.ofNat 8)))) := by
  rw [State.load, if_neg (Nat.not_lt.2 h), loadFrom_eq_storeBytes bytes s 0 hopen (by simpa using h)]

theorem State.load_of_overlength {s : State} {bytes : List Nat} (hopen : s.loaderOpen = true)
    (h : memSize < bytes.length) : s.load bytes = .tooLong s.scrambleMem := by
  rw [State.load, if_pos h, if_pos hopen]

/-- A value masked to 8 bits is the byte it is stored as (R53). -/
theorem ofNat_mod_256 (b : Nat) : BitVec.ofNat 8 (b % 256) = BitVec.ofNat 8 b := by
  apply BitVec.eq_of_toNat_eq
  simp

theorem LoadStatus.after_load_of_overlength (l : LoadStatus) {bytes : List Nat}
    (h : memSize < bytes.length) : l.after (.load bytes) = .failed := if_pos h

theorem Session.allowed_start_of_ne_clean (s : State) {l : LoadStatus} (h : l ≠ .clean) :
    (Session.mk s l).allowed .start = false := by
  simp [Session.allowed, h]

/-- A failed load is left by a reset alone (70_reset_and_hazards R210). -/
theorem LoadStatus.failed_after {a : HostAction} (h : a ≠ .reset) :
    LoadStatus.failed.after a = .failed := by
  cases a with
  | reset => exact absurd rfl h
  | start => rfl
  | loaderWrite addr data => rfl
  | load bytes => simp [LoadStatus.after]

/-- After the reset only a load that fits makes a start allowed again (70_reset_and_hazards R210). -/
theorem LoadStatus.awaitingLoad_after_clean {a : HostAction}
    (h : LoadStatus.awaitingLoad.after a = .clean) :
    ∃ bytes, a = .load bytes ∧ bytes.length ≤ memSize := by
  cases a with
  | reset => exact absurd h (by decide)
  | start => exact absurd h (by decide)
  | loaderWrite addr data => exact absurd h (by simp [LoadStatus.after])
  | load bytes =>
    refine ⟨bytes, rfl, Nat.not_lt.1 fun hlen => ?_⟩
    rw [LoadStatus.after_load_of_overlength _ hlen] at h
    exact absurd h (by decide)

/-- Settles O52: a load that fits is `storeBytes` from address 0 (`State.load_of_fits`), a longer one
scrambles memory; the host's duty by the cases of the action. -/
theorem loadRule : Obligations.LoadRule := by
  unfold Obligations.LoadRule
  intro s bytes hr hrun
  have hopen := State.loaderOpen_of_stopped hr hrun
  refine ⟨fun hlen => ⟨_, State.load_of_fits hopen hlen, rfl, fun a => ?_⟩,
    fun hlen => ⟨_, State.load_of_overlength hopen hlen, rfl,
      fun l => l.after_load_of_overlength hlen⟩,
    fun l hl => Session.allowed_start_of_ne_clean s hl, fun a ha => LoadStatus.failed_after ha, rfl,
    fun a ha => LoadStatus.awaitingLoad_after_clean ha⟩
  rw [State.setMem_mem, storeBytes_read _ _ _ _ (by simpa [memSize] using hlen)]
  cases hb : bytes[a]? with
  | none => simp [hb]
  | some b => simp [hb, ofNat_mod_256]

/-! ### The whitespace around a text (R63) -/

theorem isBlank_iff (c : Char) : isBlank c = true ↔ c = ' ' ∨ c = '\t' ∨ c = '\r' := by
  simp [isBlank, or_assoc]

theorem trimBlanks_eq_rdropWhile (cs : List Char) :
    trimBlanks cs = (cs.dropWhile isBlank).rdropWhile isBlank := rfl

/-- Blanks after a text are dropped with those at its end. -/
theorem rdropWhile_append_blanks (cs : List Char) {post : List Char}
    (h : ∀ c ∈ post, isBlank c = true) :
    (cs ++ post).rdropWhile isBlank = cs.rdropWhile isBlank := by
  have hrev : ∀ c ∈ post.reverse, isBlank c = true := fun c hc => h c (List.mem_reverse.1 hc)
  rw [List.rdropWhile, List.reverse_append, List.dropWhile_append_of_pos hrev, List.rdropWhile]

/-- What is trimmed does not depend on the whitespace put around it. -/
theorem trimBlanks_append {pre post : List Char} (hpre : ∀ c ∈ pre, isBlank c = true)
    (t : List Char) (hpost : ∀ c ∈ post, isBlank c = true) :
    trimBlanks (pre ++ t ++ post) = trimBlanks t := by
  rw [trimBlanks_eq_rdropWhile, trimBlanks_eq_rdropWhile, List.append_assoc,
    List.dropWhile_append_of_pos hpre, List.dropWhile_append]
  split
  · next hnil =>
    rw [List.dropWhile_eq_nil_iff.2 hpost, List.isEmpty_iff.1 hnil]
  · exact rdropWhile_append_blanks _ hpost

/-- Trimming takes away whitespace at both ends and nothing else. -/
theorem exists_blanks_around_trimBlanks (cs : List Char) :
    ∃ pre post, (∀ c ∈ pre, isBlank c = true) ∧ (∀ c ∈ post, isBlank c = true) ∧
      cs = pre ++ trimBlanks cs ++ post := by
  refine ⟨cs.takeWhile isBlank, (cs.dropWhile isBlank).rtakeWhile isBlank,
    fun c hc => List.mem_takeWhile_imp hc, fun c hc => List.mem_rtakeWhile_imp hc, ?_⟩
  rw [trimBlanks_eq_rdropWhile, List.append_assoc, List.rdropWhile_append_rtakeWhile,
    List.takeWhile_append_dropWhile]

@[simp] theorem trimBlanks_trimBlanks (cs : List Char) : trimBlanks (trimBlanks cs) = trimBlanks cs := by
  obtain ⟨pre, post, hpre, hpost, hcs⟩ := exists_blanks_around_trimBlanks cs
  calc trimBlanks (trimBlanks cs)
      = trimBlanks (pre ++ trimBlanks cs ++ post) := (trimBlanks_append hpre _ hpost).symm
    _ = trimBlanks cs := by rw [← hcs]

theorem mem_of_mem_trimBlanks {c : Char} {cs : List Char} (h : c ∈ trimBlanks cs) : c ∈ cs := by
  obtain ⟨pre, post, -, -, hcs⟩ := exists_blanks_around_trimBlanks cs
  rw [hcs]
  simp [h]

theorem mem_trimBlanks_of_not_blank {c : Char} {cs : List Char} (h : c ∈ cs) (hc : isBlank c = false) :
    c ∈ trimBlanks cs := by
  obtain ⟨pre, post, hpre, hpost, hcs⟩ := exists_blanks_around_trimBlanks cs
  rw [hcs, List.mem_append, List.mem_append] at h
  rcases h with (h | h) | h
  · exact absurd (hpre c h) (by simp [hc])
  · exact h
  · exact absurd (hpost c h) (by simp [hc])

/-! ### The value of a line (R63) -/

/-- A character of a base-2 number. -/
def isBinaryDigit (c : Char) : Bool := c = '0' || c = '1'

theorem isBinaryDigit_iff (c : Char) : isBinaryDigit c = true ↔ c = '0' ∨ c = '1' := by
  simp [isBinaryDigit]

theorem isBlank_of_isBinaryDigit {c : Char} (h : isBinaryDigit c = true) : isBlank c = false := by
  rcases (isBinaryDigit_iff c).1 h with rfl | rfl <;> decide

/-- A text with no whitespace at either end is kept whole. -/
theorem trimBlanks_of_ends_not_blank {t : List Char} (hhead : ∀ c ∈ t.head?, isBlank c = false)
    (hlast : ∀ c ∈ t.getLast?, isBlank c = false) : trimBlanks t = t := by
  have hdrop : t.dropWhile isBlank = t := by
    cases t with
    | nil => rfl
    | cons a t => exact List.dropWhile_cons_of_neg (by simp [hhead a rfl])
  rw [trimBlanks_eq_rdropWhile, hdrop, List.rdropWhile_eq_self_iff]
  intro hne
  simp [hlast _ (List.getLast?_eq_some_getLast hne)]

theorem stripComment_of_not_mem {l : List Char} (h : '#' ∉ l) : stripComment l = l :=
  List.takeWhile_eq_self_iff.2 fun _ hc => decide_eq_true (ne_of_mem_of_not_mem hc h)

theorem stripComment_append_comment {l : List Char} (h : '#' ∉ l) (comment : List Char) :
    stripComment (l ++ '#' :: comment) = l := by
  rw [stripComment, List.takeWhile_append_of_pos fun _ hc => decide_eq_true (ne_of_mem_of_not_mem hc h)]
  simp

theorem not_mem_stripComment (l : List Char) : '#' ∉ stripComment l := fun h => by
  simpa using List.mem_takeWhile_imp (p := (· ≠ '#')) h

/-- The value of a line is that of its text. -/
theorem lineValue_congr {l l' : List Char}
    (h : trimBlanks (stripComment l) = trimBlanks (stripComment l')) : lineValue l = lineValue l' := by
  rw [lineValue, h, lineValue]

theorem lineValue_of_empty {line : List Char} (h : trimBlanks (stripComment line) = []) :
    lineValue line = none := if_pos h

theorem lineValue_of_digits {line : List Char} (hne : trimBlanks (stripComment line) ≠ [])
    (h : ∀ c ∈ trimBlanks (stripComment line), isBinaryDigit c = true) :
    lineValue line = some (binaryValue (trimBlanks (stripComment line)) % 256) :=
  (if_neg hne).trans (if_pos (List.all_eq_true.2 h))

theorem lineValue_of_not_digit {line : List Char} {c : Char}
    (hc : c ∈ trimBlanks (stripComment line)) (h : isBinaryDigit c = false) : lineValue line = none :=
  (if_neg (List.ne_nil_of_mem hc)).trans
    (if_neg fun hall => absurd (List.all_eq_true.1 hall c hc) (by simpa [isBinaryDigit] using h))

/-- Whitespace around a text and a comment after it do not change the line's value. -/
theorem lineValue_between_blanks {pre t post : List Char} (hpre : ∀ c ∈ pre, isBlank c = true)
    (hpost : ∀ c ∈ post, isBlank c = true) (ht : '#' ∉ t) (comment : List Char) :
    lineValue (pre ++ t ++ post) = lineValue t ∧
      lineValue (pre ++ t ++ post ++ '#' :: comment) = lineValue t := by
  have hline : '#' ∉ pre ++ t ++ post := by
    simp only [List.mem_append, not_or]
    exact ⟨⟨fun h => absurd (hpre _ h) (by decide), ht⟩, fun h => absurd (hpost _ h) (by decide)⟩
  constructor <;> apply lineValue_congr
  · rw [stripComment_of_not_mem hline, stripComment_of_not_mem ht, trimBlanks_append hpre t hpost]
  · rw [stripComment_append_comment hline, stripComment_of_not_mem ht, trimBlanks_append hpre t hpost]

theorem lineValue_binaryText {t : List Char} (hne : t ≠ []) (h : ∀ c ∈ t, isBinaryDigit c = true) :
    lineValue t = some (binaryValue t % 256) := by
  have htrim : trimBlanks (stripComment t) = t := by
    rw [stripComment_of_not_mem fun hc => absurd (h _ hc) (by decide)]
    exact trimBlanks_of_ends_not_blank
      (fun c hc => isBlank_of_isBinaryDigit (h c (List.mem_of_mem_head? hc)))
      (fun c hc => isBlank_of_isBinaryDigit (h c (List.mem_of_getLast? hc)))
  have hvalue := lineValue_of_digits (line := t)
  rw [htrim] at hvalue
  exact hvalue hne h

/-- A character that is neither a digit nor whitespace survives the trimming. -/
theorem lineValue_of_other_char {t : List Char} (ht : '#' ∉ t) {c : Char} (hc : c ∈ t)
    (hblank : isBlank c = false) (hdigit : isBinaryDigit c = false) : lineValue t = none := by
  refine lineValue_of_not_digit (c := c) ?_ hdigit
  rw [stripComment_of_not_mem ht]
  exact mem_trimBlanks_of_not_blank hc hblank

/-- Whitespace between two digits survives the trimming. -/
theorem lineValue_of_blank_between_digits {a b c : Char} {mid : List Char}
    (ht : '#' ∉ a :: (mid ++ [b])) (ha : isBinaryDigit a = true) (hb : isBinaryDigit b = true)
    (hc : c ∈ mid) (hblank : isBlank c = true) : lineValue (a :: (mid ++ [b])) = none := by
  have hdigit : isBinaryDigit c = false := Bool.eq_false_iff.2 fun hd => by
    simp [isBlank_of_isBinaryDigit hd] at hblank
  have hlast : (a :: (mid ++ [b])).getLast? = some b := List.getLast?_concat (l := a :: mid)
  refine lineValue_of_not_digit (c := c) ?_ hdigit
  rw [stripComment_of_not_mem ht, trimBlanks_of_ends_not_blank]
  · simp [hc]
  · simp [isBlank_of_isBinaryDigit ha]
  · simp [hlast, isBlank_of_isBinaryDigit hb]

/-- Settles O54: by `lineValue_between_blanks` the line has the value of its text alone, and each clause
is the rule for one kind of text. -/
theorem programFileLineRule : Obligations.ProgramFileLineRule := by
  unfold Obligations.ProgramFileLineRule
  intro pre t post comment hblank
  have hpre : ∀ c ∈ pre, isBlank c = true := fun c hc =>
    (isBlank_iff c).2 (hblank c (List.mem_append_left _ hc))
  have hpost : ∀ c ∈ post, isBlank c = true := fun c hc =>
    (isBlank_iff c).2 (hblank c (List.mem_append_right _ hc))
  have hvalue : ∀ {v}, '#' ∉ t → lineValue t = v → lineValue (pre ++ t ++ post) = v ∧
      lineValue (pre ++ t ++ post ++ '#' :: comment) = v := by
    rintro v ht rfl
    exact lineValue_between_blanks hpre hpost ht comment
  refine ⟨?digits, ?other, ?inside, ?empty⟩
  case digits =>
    rintro ⟨hne, hdigits⟩
    have hdig : ∀ c ∈ t, isBinaryDigit c = true := fun c hc => (isBinaryDigit_iff c).2 (hdigits c hc)
    exact hvalue (fun h => absurd (hdig _ h) (by decide)) (lineValue_binaryText hne hdig)
  case other =>
    intro c hc hother ht
    obtain ⟨h0, h1, -, hspace, htab, hreturn⟩ : c ≠ '0' ∧ c ≠ '1' ∧ c ≠ '#' ∧ c ≠ ' ' ∧ c ≠ '\t' ∧
        c ≠ '\r' := by simpa using hother
    exact hvalue ht (lineValue_of_other_char ht hc (by simp [isBlank, hspace, htab, hreturn])
      (by simp [isBinaryDigit, h0, h1]))
  case inside =>
    rintro a b mid rfl ha hb ⟨c, hc, hcb⟩ ht
    exact hvalue ht (lineValue_of_blank_between_digits ht ((isBinaryDigit_iff a).2 ha)
      ((isBinaryDigit_iff b).2 hb) hc ((isBlank_iff c).2 hcb))
  case empty =>
    rintro rfl
    exact hvalue List.not_mem_nil (lineValue_of_empty rfl)

/-! ### The lines of a file (R63, R64) -/

/-- The model's cut at line ends is the library's. -/
theorem splitLines_eq_splitOn (cs : List Char) : splitLines cs = cs.splitOn '\n' := by
  induction cs with
  | nil => rfl
  | cons c cs ih =>
    obtain ⟨l, ls, hls⟩ := List.exists_cons_of_ne_nil (List.splitOn_ne_nil '\n' cs)
    rw [splitLines, ih, List.splitOn_cons_eq_if_modifyHead, hls]
    simp only [beq_iff_eq, List.modifyHead_cons]

/-- A file of lines gives the values of its lines. -/
theorem parseProgramFile_intercalate {lines : List (List Char)} (h : ∀ l ∈ lines, '\n' ∉ l) :
    parseProgramFile (List.intercalate ['\n'] lines) = lines.filterMap lineValue := by
  by_cases hne : lines = []
  · subst hne
    rfl
  · rw [parseProgramFile, splitLines_eq_splitOn, List.splitOn_intercalate '\n' h hne]

theorem lineValue_trimBlanks_stripComment (l : List Char) :
    lineValue (trimBlanks (stripComment l)) = lineValue l := by
  apply lineValue_congr
  have h : '#' ∉ trimBlanks (stripComment l) := fun h =>
    not_mem_stripComment l (mem_of_mem_trimBlanks h)
  rw [stripComment_of_not_mem h, trimBlanks_trimBlanks]

/-- Settles O53: a file gives the values of its lines (`parseProgramFile_intercalate`), stripping
keeps the value of a line, and a line stripped to nothing has none. -/
theorem programFileCommentsIgnored : Obligations.ProgramFileCommentsIgnored := by
  unfold Obligations.ProgramFileCommentsIgnored
  intro lines h
  have hstripped : ∀ l ∈ (lines.map fun l => trimBlanks (stripComment l)).filter (fun l => l ≠ []),
      '\n' ∉ l := by
    intro l hl hnl
    obtain ⟨l, hmem, rfl⟩ := List.mem_map.1 (List.mem_filter.1 hl).1
    exact h l hmem ((List.takeWhile_subset _) (mem_of_mem_trimBlanks hnl))
  rw [parseProgramFile_intercalate h, parseProgramFile_intercalate hstripped, List.filterMap_filter,
    List.filterMap_map]
  refine List.filterMap_congr fun l _ => ?_
  by_cases hl : trimBlanks (stripComment l) = []
  · simp [hl, lineValue_of_empty hl]
  · simp [hl, lineValue_trimBlanks_stripComment]

end Sys2Proof.Machine
end

section
/-! PROOFS. The statements of spec/30_encoding.md: what the decoder accepts and refuses, that the units
steered by the control word do what the meanings do, and that the assembler reads back what the writer
gives. -/

namespace Sys2Proof.Machine

/-! ### What the handlers read (R85, R86) -/

theorem except_bind_eq_ok_iff {ε α β : Type} {x : Except ε α} {f : α → Except ε β} {b : β} :
    x >>= f = .ok b ↔ ∃ a, x = .ok a ∧ f a = .ok b := by
  cases x with
  | error e => simp [bind, Except.bind]
  | ok a => simp [bind, Except.bind]

/-- `f` supplies every operand byte of the encoding, at its position in the instruction. -/
def SuppliesOperands {ε : Type} (f : Nat → Except ε Byte) (i : Instr) : Prop :=
  ∀ p ∈ (encode i).tail.zipIdx 1, f p.2 = .ok p.1

/-- The handler looked up by an instruction's own opcode reads that instruction exactly where its
operand bytes are supplied. -/
theorem decodeOperands_opcode_eq_ok_iff {ε : Type} (f : Nat → Except ε Byte) (unknown : Byte → ε)
    (i : Instr) : decodeOperands i.opcode f unknown = .ok i ↔ SuppliesOperands f i := by
  cases i <;>
    simp [decodeOperands, Instr.opcode, opHalt, opLdi, opPrn, opMul, opPush, opPop,
      except_bind_eq_ok_iff, SuppliesOperands, encode]

theorem decodeOperands_eq_ok_iff {ε : Type} {op : Byte} {f : Nat → Except ε Byte}
    {unknown : Byte → ε} {i : Instr} :
    decodeOperands op f unknown = .ok i ↔ i.opcode = op ∧ SuppliesOperands f i := by
  constructor
  · intro h
    obtain rfl := decodeOperands_opcode h
    exact ⟨rfl, (decodeOperands_opcode_eq_ok_iff f unknown i).1 h⟩
  · rintro ⟨rfl, h⟩
    exact (decodeOperands_opcode_eq_ok_iff f unknown i).2 h

/-! ### Decode and encode (R80, R81) -/

theorem listByte_eq_ok_iff {bytes : List Byte} {k : Nat} {b : Byte} :
    listByte bytes k = .ok b ↔ bytes[k]? = some b := by
  unfold listByte
  cases bytes[k]? <;> simp

theorem encode_eq_opcode_cons (i : Instr) : encode i = i.opcode :: (encode i).tail := by
  cases i <;> rfl

theorem encode_length (i : Instr) : (encode i).length = i.length := by
  cases i <;> rfl

/-- A list stands at the head of another where each of its elements stands at its position. -/
theorem isPrefix_iff_forall_mem_zipIdx {α : Type} {l m : List α} :
    l <+: m ↔ ∀ p ∈ l.zipIdx, m[p.2]? = some p.1 := by
  rw [List.prefix_iff_getElem?]
  constructor
  · intro h p hp
    obtain ⟨hlt, heq⟩ := List.getElem?_eq_some_iff.1 (List.mem_zipIdx_iff_getElem?.1 hp)
    rw [h p.2 hlt, heq]
  · intro h k hk
    exact h (l[k], k) (List.mem_zipIdx_iff_getElem?.2 (List.getElem?_eq_getElem hk))

theorem encode_prefix_iff {bytes : List Byte} {i : Instr} :
    encode i <+: bytes ↔ bytes[0]? = some i.opcode ∧ SuppliesOperands (listByte bytes) i := by
  rw [isPrefix_iff_forall_mem_zipIdx, encode_eq_opcode_cons, List.zipIdx_cons, List.forall_mem_cons]
  simp only [SuppliesOperands, listByte_eq_ok_iff, zero_add]

/-- The decoder is the inverse of the encoder: everything it accepts, once. -/
theorem decode_eq_ok_iff {bytes rest : List Byte} {i : Instr} :
    decode bytes = .ok (i, rest) ↔ bytes = encode i ++ rest := by
  constructor
  · simp only [decode, except_bind_eq_ok_iff, listByte_eq_ok_iff, decodeOperands_eq_ok_iff]
    rintro ⟨_, hop, _, ⟨rfl, hoperands⟩, ⟨⟩⟩
    rw [← encode_length]
    exact List.prefix_append_drop (encode_prefix_iff.2 ⟨hop, hoperands⟩)
  · rintro rfl
    obtain ⟨hop, hoperands⟩ := encode_prefix_iff.1 (List.prefix_append (encode i) rest)
    simp only [decode, except_bind_eq_ok_iff, listByte_eq_ok_iff, decodeOperands_eq_ok_iff]
    exact ⟨_, hop, i, ⟨rfl, hoperands⟩, by rw [← encode_length, List.drop_left]⟩

/-- Settles O35, as the part of `decode_eq_ok_iff` that reads an encoding. -/
theorem decodeEncodeAgree : Obligations.DecodeEncodeAgree := by
  unfold Obligations.DecodeEncodeAgree
  exact fun _ _ => decode_eq_ok_iff.2 rfl

/-- Settles O36, as the part of `decode_eq_ok_iff` that says what was read. -/
theorem encodeDecodeAgree : Obligations.EncodeDecodeAgree := by
  unfold Obligations.EncodeDecodeAgree
  exact fun _ _ _ h => decode_eq_ok_iff.1 h

/-- Settles O34: each word is the encoding of its instruction, with nothing after it. -/
theorem decodeWorkedWords : Obligations.DecodeWorkedWords := by
  unfold Obligations.DecodeWorkedWords
  exact ⟨decode_eq_ok_iff.2 rfl, decode_eq_ok_iff.2 rfl, decode_eq_ok_iff.2 rfl,
    decode_eq_ok_iff.2 rfl, decode_eq_ok_iff.2 rfl, decode_eq_ok_iff.2 rfl⟩

/-! ### The illegal opcodes (R88) -/

theorem controlWord_eq_none_iff {op : Byte} :
    controlWord op = none ↔ op ∉ [opHalt, opLdi, opPrn, opMul, opPush, opPop] := by
  constructor
  · intro h hmem
    have hsome : ∀ op ∈ [opHalt, opLdi, opPrn, opMul, opPush, opPop], controlWord op ≠ none := by decide
    exact hsome op hmem h
  · intro h
    simp_all [controlWord]

theorem decodeOperands_of_controlWord_none {ε : Type} {op : Byte} (h : controlWord op = none)
    (f : Nat → Except ε Byte) (unknown : Byte → ε) :
    decodeOperands op f unknown = .error (unknown op) := by
  simp_all [controlWord_eq_none_iff, decodeOperands]

/-- Settles O37: outside the six opcodes there is no control word and the handlers refuse by name; the
256 bytes are counted. -/
theorem illegalOpcodesRefused : Obligations.IllegalOpcodesRefused := by
  unfold Obligations.IllegalOpcodesRefused
  refine ⟨fun op rest h => ?_, by decide +kernel⟩
  have hcw : controlWord op = none := controlWord_eq_none_iff.2 h
  have hop : listByte (op :: rest) 0 = .ok op := rfl
  simp [decode, hop, decodeOperands_of_controlWord_none hcw, bind, Except.bind]

/-! ### The units (R87, 40_fetch_decode R107) -/

/-- The row of R87 an instruction's opcode selects. -/
def controlRow : Instr → ControlWord
  | .halt    => ⟨.HALT, 1, [], none, .none, [], false⟩
  | .ldi _ _ => ⟨.LDI, 3, [1], none, .none, [(.immediate, .operand1)], false⟩
  | .prn _   => ⟨.PRN, 2, [1], none, .none, [], true⟩
  | .mul _ _ => ⟨.MUL, 3, [1, 2], some aluMul, .none, [(.aluResult, .operand1)], false⟩
  | .push _  => ⟨.PUSH, 2, [1], none, .writeAtSpDec, [(.spDec, .sp)], false⟩
  | .pop _   => ⟨.POP, 2, [1], none, .readAtSp, [(.memData, .operand1), (.spInc, .sp)], false⟩

theorem controlWord_opcode (i : Instr) : controlWord i.opcode = some (controlRow i) := by
  cases i <;> rfl

theorem checkRegs_cons_valid {rb1 rb2 : Byte} {p : Nat}
    (h : validRegByte (operandByte rb1 rb2 p) = true) (ps : List Nat) :
    checkRegs rb1 rb2 (p :: ps) = checkRegs rb1 rb2 ps := by
  rw [checkRegs, regIdx_valid h]

theorem checkRegs_cons_invalid {rb1 rb2 : Byte} {p : Nat}
    (h : validRegByte (operandByte rb1 rb2 p) = false) (ps : List Nat) :
    checkRegs rb1 rb2 (p :: ps) =
      .error (.illegalRegister (BitVec.ofNat 8 p) (operandByte rb1 rb2 p)) := by
  rw [checkRegs, regIdx_invalid h]

/-- The checks the control word asks for. -/
def regChecks (i : Instr) : Except FaultCause Unit :=
  checkRegs ((encode i).getD 1 0) ((encode i).getD 2 0) (controlRow i).regs

theorem regChecks_wellFormed {i : Instr} (h : i.wellFormed = true) : regChecks i = .ok () := by
  cases i with
  | halt => rfl
  | ldi r v => exact checkRegs_cons_valid (p := 1) h []
  | prn r => exact checkRegs_cons_valid (p := 1) h []
  | mul a b =>
    obtain ⟨ha, hb⟩ := (Bool.and_eq_true _ _).mp h
    exact (checkRegs_cons_valid (p := 1) ha [2]).trans (checkRegs_cons_valid (p := 2) hb [])
  | push r => exact checkRegs_cons_valid (p := 1) h []
  | pop r => exact checkRegs_cons_valid (p := 1) h []

/-- Of an ill-formed instruction the checks find the fault that the instruction raises. -/
theorem regChecks_illFormed {i : Instr} (h : i.wellFormed = false) (s : State) :
    ∃ c, regChecks i = .error c ∧ exec i s = .next (s.raise c) := by
  cases i with
  | halt => exact absurd h (by decide)
  | ldi r v => exact ⟨_, checkRegs_cons_invalid (p := 1) h [], execLdi_invalid h v s⟩
  | prn r => exact ⟨_, checkRegs_cons_invalid (p := 1) h [], execPrn_invalid h s⟩
  | mul a b =>
    cases ha : validRegByte a with
    | false => exact ⟨_, checkRegs_cons_invalid (p := 1) ha [2], execMul_invalid_first ha b s⟩
    | true =>
      have hb : validRegByte b = false := by simpa [Instr.wellFormed, ha] using h
      exact ⟨_, (checkRegs_cons_valid (p := 1) ha [2]).trans (checkRegs_cons_invalid (p := 2) hb []),
        execMul_invalid_second ha hb s⟩
  | push r => exact ⟨_, checkRegs_cons_invalid (p := 1) h [], execPush_invalid h s⟩
  | pop r => exact ⟨_, checkRegs_cons_invalid (p := 1) h [], execPop_invalid h s⟩

theorem datapath_of_checkRegs_error {cw : ControlWord} {rb1 rb2 : Byte} {c : FaultCause}
    (h : checkRegs rb1 rb2 cw.regs = .error c) (s : State) : datapath cw rb1 rb2 s = s.raise c := by
  rw [datapath, h]

theorem aluOutputs_mul (a b : Byte) : aluOutputs aluMul a b = ⟨some (a * b), false⟩ := by
  rw [aluOutputs, alu_mul]

/-- An access at a stack address is in range (44_stack R162). -/
theorem sramAccess_dataAddr (m : Memory) (v : Byte) (we : Bool) (w : Byte) :
    sramAccess m ⟨dataAddr v, we, w⟩ =
      if we then (⟨none, false⟩, m.write v.toNat w) else (⟨some (m.read v.toNat), false⟩, m) := by
  simp [sramAccess, byte_lt_memSize]

theorem datapath_wellFormed {i : Instr} (h : i.wellFormed = true) (s : State) :
    datapath (controlRow i) ((encode i).getD 1 0) ((encode i).getD 2 0) s = execResult i s := by
  rw [datapath, ← regChecks, regChecks_wellFormed h]
  cases i with
  | halt => rfl
  | ldi r v => rfl
  | prn r => rfl
  | mul a b =>
    simp only [controlRow, aluOutputs_mul]
    rfl
  | push r =>
    simp only [sramAccess_dataAddr]
    rfl
  | pop r =>
    simp only [sramAccess_dataAddr]
    rfl

/-- Settles O38: the units raise what an ill-formed instruction raises (`regChecks_illFormed`) and do
what a well-formed one does (`datapath_wellFormed`). -/
theorem datapathImplementsInstructions : Obligations.DatapathImplementsInstructions := by
  unfold Obligations.DatapathImplementsInstructions
  intro i s
  refine ⟨controlRow i, controlWord_opcode i, ?_⟩
  cases h : i.wellFormed with
  | true => rw [exec_wellFormed h, datapath_wellFormed h]
  | false =>
    obtain ⟨c, hchecks, hexec⟩ := regChecks_illFormed h s
    rw [hexec, datapath_of_checkRegs_error hchecks]

/-! ### Numbers and registers in text (R91) -/

/-- A fact about every decimal digit is one about ten characters. -/
theorem forall_decimalDigit {P : Nat → Char → Prop} (h : ∀ d : Fin 10, P d (decimalDigit d)) (n : Nat) :
    P (n % 10) (decimalDigit n) := by
  have hmod : decimalDigit (n % 10) = decimalDigit n := by
    rw [decimalDigit, Nat.mod_mod, decimalDigit]
  rw [← hmod]
  exact h ⟨n % 10, Nat.mod_lt n (by decide)⟩

theorem digitValue_decimalDigit (n : Nat) : digitValue (decimalDigit n) = some (n % 10) :=
  forall_decimalDigit (P := fun d c => digitValue c = some d) (by decide) n

theorem isDigit_decimalDigit (n : Nat) : (decimalDigit n).isDigit = true :=
  forall_decimalDigit (P := fun _ c => c.isDigit = true) (by decide) n

theorem digitsFrom_nil (base acc : Nat) : digitsFrom base acc [] = some acc := rfl

theorem digitsFrom_decimalDigit (acc n : Nat) (cs : List Char) :
    digitsFrom 10 acc (decimalDigit n :: cs) = digitsFrom 10 (10 * acc + n % 10) cs := by
  rw [digitsFrom, digitValue_decimalDigit]
  exact if_pos (Nat.mod_lt n (by decide))

/-- The three lengths of a byte in decimal. -/
theorem decimalText_cases (v : Byte) :
    (v.toNat < 10 ∧ decimalText v = [decimalDigit v.toNat]) ∨
    (v.toNat < 100 ∧ decimalText v = [decimalDigit (v.toNat / 10), decimalDigit v.toNat]) ∨
    decimalText v =
      [decimalDigit (v.toNat / 100), decimalDigit (v.toNat / 10), decimalDigit v.toNat] := by
  by_cases h10 : v.toNat < 10
  · exact .inl ⟨h10, if_pos h10⟩
  · by_cases h100 : v.toNat < 100
    · exact .inr (.inl ⟨h100, (if_neg h10).trans (if_pos h100)⟩)
    · exact .inr (.inr ((if_neg h10).trans (if_neg h100)))

theorem decimalText_ne_nil (v : Byte) : decimalText v ≠ [] := by
  rcases decimalText_cases v with ⟨-, h⟩ | ⟨-, h⟩ | h <;> simp [h]

theorem isDigit_of_mem_decimalText {v : Byte} {c : Char} (hc : c ∈ decimalText v) :
    c.isDigit = true := by
  have hall : ∀ c ∈ decimalText v, c.isDigit = true := by
    rcases decimalText_cases v with ⟨-, h⟩ | ⟨-, h⟩ | h <;> simp [h, isDigit_decimalDigit]
  exact hall c hc

theorem digitsFrom_decimalText (v : Byte) : digitsFrom 10 0 (decimalText v) = some v.toNat := by
  have hv := v.isLt
  rcases decimalText_cases v with ⟨hlt, h⟩ | ⟨hlt, h⟩ | h <;>
    simp only [h, digitsFrom_decimalDigit, digitsFrom_nil, Option.some.injEq] <;> omega

/-- Digits with neither `0x` nor `0b` before them are decimal. -/
theorem parseImmediate_of_digits {cs : List Char} (h : ∀ c ∈ cs, c.isDigit = true) :
    parseImmediate cs = byteDigits 10 cs := by
  unfold parseImmediate
  split
  · exact absurd (h 'x' (by simp)) (by decide)
  · exact absurd (h 'b' (by simp)) (by decide)
  · rfl

theorem parseImmediate_decimalText (v : Byte) : parseImmediate (decimalText v) = some v := by
  have hv : v.toNat < 256 := v.isLt
  rw [parseImmediate_of_digits fun c hc => isDigit_of_mem_decimalText hc, byteDigits,
    if_neg (decimalText_ne_nil v), digitsFrom_decimalText]
  simp [hv]

/-- The name of the register a valid byte stands for. -/
def registerName (b : Byte) : List Char := ['R', decimalDigit b.toNat]

theorem regText_of_valid {b : Byte} (h : validRegByte b = true) : regText b = some (registerName b) :=
  if_pos ((validRegByte_iff b).1 h)

theorem parseRegister_registerName {b : Byte} (h : validRegByte b = true) :
    parseRegister (registerName b) = some b := by
  have hread : ∀ r : Fin 8, parseRegister (registerName (BitVec.ofNat 8 r)) = some (BitVec.ofNat 8 r) := by
    decide
  simpa using hread ⟨b.toNat, (validRegByte_iff b).1 h⟩

/-! ### Texts that the reader does not cut (R91) -/

/-- A text of one word: no whitespace, no separator, no comment. -/
structure IsWord (t : List Char) : Prop where
  nonempty : t ≠ []
  chars    : ∀ c ∈ t, isBlank c = false ∧ c ≠ ',' ∧ c ≠ '#'

/-- A text that loses nothing to the comment and whitespace rules of R63. -/
structure IsBareText (t : List Char) : Prop where
  noComment : '#' ∉ t
  head      : ∃ c, t.head? = some c ∧ isBlank c = false
  last      : ∃ c, t.getLast? = some c ∧ isBlank c = false

/-- Letters and digits are neither whitespace nor `,` nor `#`. -/
theorem isWord_of_alphanum {t : List Char} (hne : t ≠ []) (h : ∀ c ∈ t, c.isAlphanum = true) :
    IsWord t := by
  refine ⟨hne, fun c hc => ?_⟩
  have halnum : ∀ d, d.isAlphanum = false → c ≠ d := by
    rintro d hd rfl
    simp [h c hc] at hd
  refine ⟨Bool.eq_false_iff.2 fun hblank => ?_, halnum ',' (by decide), halnum '#' (by decide)⟩
  rcases (isBlank_iff c).1 hblank with hc | hc | hc <;> exact halnum _ (by decide) hc

theorem isWord_mnemonicText (i : Instr) : IsWord (mnemonicText i) := by
  have hne : mnemonicText i ≠ [] := by cases i <;> exact List.cons_ne_nil _ _
  have halnum : (mnemonicText i).all Char.isAlphanum = true := by cases i <;> rfl
  exact isWord_of_alphanum hne (List.all_eq_true.1 halnum)

theorem isWord_decimalText (v : Byte) : IsWord (decimalText v) :=
  isWord_of_alphanum (decimalText_ne_nil v) fun c hc => by
    simp [Char.isAlphanum, isDigit_of_mem_decimalText hc]

theorem isWord_registerName (b : Byte) : IsWord (registerName b) :=
  isWord_of_alphanum (by simp [registerName]) (by simp [registerName, Char.isAlphanum, isDigit_decimalDigit])

theorem IsWord.bare {t : List Char} (h : IsWord t) : IsBareText t where
  noComment hc := (h.chars _ hc).2.2 rfl
  head := ⟨t.head h.nonempty, List.head?_eq_some_head h.nonempty, (h.chars _ (List.head_mem _)).1⟩
  last := ⟨t.getLast h.nonempty, List.getLast?_eq_some_getLast h.nonempty,
    (h.chars _ (List.getLast_mem _)).1⟩

theorem IsBareText.append {t u sep : List Char} (ht : IsBareText t) (hsep : '#' ∉ sep) (hu : IsBareText u) :
    IsBareText (t ++ sep ++ u) := by
  obtain ⟨a, ha, hab⟩ := ht.head
  obtain ⟨b, hb, hbb⟩ := hu.last
  exact ⟨by simp [ht.noComment, hsep, hu.noComment], ⟨a, by simp [ha], hab⟩, ⟨b, by simp [hb], hbb⟩⟩

theorem IsBareText.trimmed {t : List Char} (h : IsBareText t) : trimBlanks (stripComment t) = t := by
  obtain ⟨a, ha, hab⟩ := h.head
  obtain ⟨b, hb, hbb⟩ := h.last
  rw [stripComment_of_not_mem h.noComment]
  exact trimBlanks_of_ends_not_blank (by simpa [ha] using hab) (by simpa [hb] using hbb)

theorem IsBareText.ne_nil {t : List Char} (h : IsBareText t) : t ≠ [] := by
  obtain ⟨a, ha, -⟩ := h.head
  rintro rfl
  simp at ha

theorem IsBareText.dropWhile_isBlank {t : List Char} (h : IsBareText t) : t.dropWhile isBlank = t := by
  obtain ⟨a, ha, hab⟩ := h.head
  obtain ⟨t, rfl⟩ := List.head?_eq_some_iff.1 ha
  exact List.dropWhile_cons_of_neg (by simp [hab])

/-! ### Operands -/

/-- Operands in text, separated as R91 says. -/
def operandsText (ops : List (List Char)) : List Char := [',', ' '].intercalate ops

theorem isBareText_operandsText {ops : List (List Char)} (hne : ops ≠ []) (h : ∀ o ∈ ops, IsWord o) :
    IsBareText (operandsText ops) := by
  induction ops with
  | nil => exact absurd rfl hne
  | cons o os ih =>
    obtain ⟨ho, hos⟩ := List.forall_mem_cons.1 h
    by_cases hnil : os = []
    · subst hnil
      simpa [operandsText] using ho.bare
    · rw [operandsText, List.intercalate_cons_of_ne_nil hnil]
      exact ho.bare.append (by decide) (ih hnil hos)

/-- Characters that are no comma stay in the first operand. -/
theorem splitOperands_append_of_not_mem {t cs o : List Char} {os : List (List Char)} (ht : ',' ∉ t)
    (h : splitOperands cs = o :: os) : splitOperands (t ++ cs) = (t ++ o) :: os := by
  induction t with
  | nil => exact h
  | cons c t ih =>
    have hc : c ≠ ',' := fun hc => ht (by simp [hc])
    have hrest := ih fun hmem => ht (by simp [hmem])
    rw [List.cons_append, splitOperands, hrest]
    · rfl
    · rintro _ rfl
      exact absurd rfl hc

theorem splitOperands_operandsText {ops : List (List Char)} (hne : ops ≠ []) (h : ∀ o ∈ ops, IsWord o) :
    splitOperands (operandsText ops) = ops := by
  induction ops with
  | nil => exact absurd rfl hne
  | cons o os ih =>
    obtain ⟨ho, hos⟩ := List.forall_mem_cons.1 h
    have hcomma : ',' ∉ o := fun hc => (ho.chars _ hc).2.1 rfl
    by_cases hnil : os = []
    · subst hnil
      simpa [operandsText] using splitOperands_append_of_not_mem hcomma (cs := []) rfl
    · have hsep : splitOperands (',' :: ' ' :: operandsText os) = [] :: os := by
        rw [splitOperands, ih hnil hos]
      rw [operandsText, List.intercalate_cons_of_ne_nil hnil, List.append_assoc]
      simpa [operandsText] using splitOperands_append_of_not_mem hcomma hsep

/-- A line of R91: a mnemonic and its operands. -/
def lineText (m : List Char) (ops : List (List Char)) : List Char :=
  if ops = [] then m else m ++ [' '] ++ operandsText ops

theorem isBareText_lineText {m : List Char} {ops : List (List Char)} (hm : IsWord m)
    (hops : ∀ o ∈ ops, IsWord o) : IsBareText (lineText m ops) := by
  unfold lineText
  split
  · exact hm.bare
  · next hne => exact hm.bare.append (by decide) (isBareText_operandsText hne hops)

theorem parseInstr_lineText {m : List Char} {ops : List (List Char)} {k : Kind} (hm : IsWord m)
    (hops : ∀ o ∈ ops, IsWord o) (hk : mnemonicKind m = some k) :
    parseInstr (lineText m ops) = assembleKind k ops := by
  have hblank : ∀ c ∈ m, (!isBlank c) = true := fun c hc => by simp [(hm.chars c hc).1]
  by_cases hne : ops = []
  · subst hne
    have htake : m.takeWhile (fun c => !isBlank c) = m := List.takeWhile_eq_self_iff.2 hblank
    have hdrop : m.dropWhile (fun c => !isBlank c) = [] := List.dropWhile_eq_nil_iff.2 hblank
    simp [parseInstr, lineText, htake, hdrop, hk]
  · have hbare := isBareText_operandsText hne hops
    have hspace : isBlank ' ' = true := rfl
    simp [parseInstr, lineText, hne, List.takeWhile_append_of_pos hblank,
      List.dropWhile_append_of_pos hblank, hspace, hk, hbare.dropWhile_isBlank, hbare.ne_nil,
      splitOperands_operandsText hne hops]

/-! ### The line of an instruction -/

/-- The operands of an instruction in text, in the encoding's order. -/
def operandTexts : Instr → List (List Char)
  | .halt    => []
  | .ldi r v => [registerName r, decimalText v]
  | .prn r   => [registerName r]
  | .mul a b => [registerName a, registerName b]
  | .push r  => [registerName r]
  | .pop r   => [registerName r]

theorem isWord_of_mem_operandTexts (i : Instr) : ∀ o ∈ operandTexts i, IsWord o := by
  cases i <;> simp [operandTexts, isWord_registerName, isWord_decimalText]

theorem asmText_wellFormed {i : Instr} (h : i.wellFormed = true) :
    asmText i = some (lineText (mnemonicText i) (operandTexts i)) := by
  cases i with
  | halt => rfl
  | ldi r v => simp [asmText, regText_of_valid h, lineText, operandTexts, operandsText]
  | prn r => simp [asmText, regText_of_valid h, lineText, operandTexts, operandsText]
  | mul a b =>
    obtain ⟨ha, hb⟩ := (Bool.and_eq_true _ _).mp h
    simp [asmText, regText_of_valid ha, regText_of_valid hb, lineText, operandTexts, operandsText]
  | push r => simp [asmText, regText_of_valid h, lineText, operandTexts, operandsText]
  | pop r => simp [asmText, regText_of_valid h, lineText, operandTexts, operandsText]

/-- The kind of the mnemonic reads the operands back. -/
theorem assembleKind_operandTexts {i : Instr} (h : i.wellFormed = true) :
    ∃ k, mnemonicKind (mnemonicText i) = some k ∧ assembleKind k (operandTexts i) = some i := by
  cases i with
  | halt => exact ⟨.HALT, rfl, rfl⟩
  | ldi r v =>
    exact ⟨.LDI, rfl, by
      simp [assembleKind, operandTexts, parseRegister_registerName h, parseImmediate_decimalText]⟩
  | prn r =>
    exact ⟨.PRN, rfl, by simp [assembleKind, operandTexts, parseRegister_registerName h]⟩
  | mul a b =>
    obtain ⟨ha, hb⟩ := (Bool.and_eq_true _ _).mp h
    exact ⟨.MUL, rfl, by
      simp [assembleKind, operandTexts, parseRegister_registerName ha, parseRegister_registerName hb]⟩
  | push r =>
    exact ⟨.PUSH, rfl, by simp [assembleKind, operandTexts, parseRegister_registerName h]⟩
  | pop r =>
    exact ⟨.POP, rfl, by simp [assembleKind, operandTexts, parseRegister_registerName h]⟩

theorem assembleLine_of_bare {line : List Char} {i : Instr} (hbare : IsBareText line)
    (h : parseInstr line = some i) : assembleLine line = some (encode i) := by
  rw [assembleLine, hbare.trimmed, if_neg hbare.ne_nil, h]
  rfl

/-- Settles O57: the line is cut where the writer put it together (`parseInstr_lineText`), and each
part is read back (`assembleKind_operandTexts`). -/
theorem assemblyRoundTrip : Obligations.AssemblyRoundTrip := by
  unfold Obligations.AssemblyRoundTrip
  intro i h
  obtain ⟨k, hk, hread⟩ := assembleKind_operandTexts h
  have hm := isWord_mnemonicText i
  have hops := isWord_of_mem_operandTexts i
  have hparse := (parseInstr_lineText hm hops hk).trans hread
  exact ⟨_, asmText_wellFormed h, hparse, assembleLine_of_bare (isBareText_lineText hm hops) hparse⟩

end Sys2Proof.Machine
end

section
/-! PROOFS. The statements of spec/40_fetch_decode.md: what the fetch hands to the decoder, how an opcode
fetch and a register operand fault, and what a start does. -/

namespace Sys2Proof.Machine

/-! ### The bytes at the pc and the fetches (R101, R102) -/

theorem bytesFrom_getElem?_eq_some_iff {m : Memory} {b : Byte} {n a k : Nat} :
    (bytesFrom m n a)[k]? = some b ↔ k < n ∧ a + k < memSize ∧ m.read (a + k) = b := by
  induction n generalizing a k with
  | zero => simp [bytesFrom]
  | succ n ih =>
    by_cases ha : a < memSize
    · cases k with
      | zero => simp [bytesFrom, ha]
      | succ k => simp [bytesFrom, ha, ih, Nat.add_assoc, Nat.add_comm 1 k]
    · have hk : ¬ a + k < memSize := by omega
      simp [bytesFrom, ha, hk]

/-- The fetch at `pc + k` gives byte `k` of the bytes at the pc: the incrementer does not wrap before
the end of memory (R103, R106). -/
theorem fetch_of_codeBytes {s : State} {k : Nat} {b : Byte} (h : s.codeBytes[k]? = some b) :
    s.fetch (pcPlus s.pc k) = .ok b := by
  obtain ⟨hk, hend, rfl⟩ := bytesFrom_getElem?_eq_some_iff.1 h
  have haddr : (pcPlus s.pc k).toNat = s.pc.toNat + k := pcPlus_toNat (by omega) (by omega)
  rw [fetch_of_lt s (by omega), haddr]

theorem SuppliesOperands.mono {ε δ : Type} {f : Nat → Except ε Byte} {g : Nat → Except δ Byte} {i : Instr}
    (h : SuppliesOperands f i) (hfg : ∀ k b, f k = .ok b → g k = .ok b) : SuppliesOperands g i :=
  fun p hp => hfg p.2 p.1 (h p hp)

/-- Where the bytes at the pc decode, the run loop fetches the same opcode and operand bytes. -/
theorem runStep_of_decode {s : State} {i : Instr} {rest : List Byte}
    (h : decode s.codeBytes = .ok (i, rest)) : runStep s = exec i (s.setIr i.opcode) := by
  have hprefix : encode i <+: s.codeBytes := ⟨rest, (decode_eq_ok_iff.1 h).symm⟩
  obtain ⟨hop, hoperands⟩ := encode_prefix_iff.1 hprefix
  obtain ⟨-, hpc, hread⟩ := bytesFrom_getElem?_eq_some_iff.1 hop
  rw [Nat.add_zero] at hpc hread
  have hfetch : (s.setIr i.opcode).fetchInstr i.opcode = .ok i :=
    decodeOperands_eq_ok_iff.2 ⟨rfl, hoperands.mono fun _ _ hk => fetch_of_codeBytes (listByte_eq_ok_iff.1 hk)⟩
  rw [← hread] at hfetch ⊢
  exact runStep_of_fetchInstr_ok hpc hfetch

/-- Settles O1, by `runStep_of_decode`. -/
theorem stepRunsDecodedInstruction : Obligations.StepRunsDecodedInstruction := by
  unfold Obligations.StepRunsDecodedInstruction
  exact fun _ _ _ hr hrun h => (step_running hr hrun).trans (runStep_of_decode h)

/-- Settles O2, as the case of `step` outside RUNNING. -/
theorem stepIdlesOutsideRunning : Obligations.StepIdlesOutsideRunning := by
  unfold Obligations.StepIdlesOutsideRunning
  exact fun _ hr hrun => step_stopped hr hrun

/-! ### Opcode faults (R103, R104) -/

/-- An opcode without a control word faults before any operand byte is asked for. -/
theorem runStep_of_controlWord_none {s : State} (hpc : s.pc.toNat < memSize)
    (h : controlWord (s.mem.read s.pc.toNat) = none) :
    runStep s = .next ((s.setIr (s.mem.read s.pc.toNat)).raise (.unknownOpcode (s.mem.read s.pc.toNat))) :=
  runStep_of_fetchInstr_error hpc (decodeOperands_of_controlWord_none h _ _)

/-- Settles O10: a byte outside the six opcodes has no control word, and memory after reset reads
`memDefault` everywhere. -/
theorem unknownOpcodeStepRule : Obligations.UnknownOpcodeStepRule := by
  unfold Obligations.UnknownOpcodeStepRule
  constructor
  · intro s hr hrun hpc op hop
    exact (step_running hr hrun).trans (runStep_of_controlWord_none hpc (controlWord_eq_none_iff.2 hop))
  · intro a _
    have hread : State.reset.mem.read a = memDefault := Memory.read_nil a
    rw [hread]
    decide

/-- Settles O11: the state the failed opcode fetch leaves is the one `raiseAtFetch` builds. -/
theorem opcodeFetchOutOfRangeFaults : Obligations.OpcodeFetchOutOfRangeFaults := by
  unfold Obligations.OpcodeFetchOutOfRangeFaults
  exact fun _ hr hrun hpc => ⟨_, (step_running hr hrun).trans (runStep_outOfRange hpc), rfl⟩

/-! ### The register operand check (R105) -/

theorem validRegByte_eq_false_iff (b : Byte) : validRegByte b = false ↔ 8 ≤ b.toNat := by
  simp [validRegByte]

/-- `p * 0x100 + b` fits the 16 bits of FAULT_INFO at every position. -/
theorem illegalRegister_info_toNat (p b : Byte) :
    (FaultCause.illegalRegister p b).info.toNat = p.toNat * 0x100 + b.toNat := by
  have hp := p.isLt
  have hb := b.isLt
  simp only [FaultCause.info, BitVec.toNat_ofNat]
  omega

/-- Settles O19, from the two outcomes of `regIdx`. -/
theorem registerIndexRule : Obligations.RegisterIndexRule := by
  unfold Obligations.RegisterIndexRule
  intro b p _
  constructor
  · intro h
    exact ⟨regIdx_invalid ((validRegByte_eq_false_iff b).2 h) p, illegalRegister_info_toNat p b⟩
  · intro h
    have hvalid := (validRegByte_iff b).2 h
    exact ⟨lowIndex b, regIdx_valid hvalid p, lowIndex_val hvalid⟩

/-- Settles O20, from each meaning's own fault. -/
theorem illegalRegisterTraps : Obligations.IllegalRegisterTraps := by
  unfold Obligations.IllegalRegisterTraps
  intro a b s
  constructor
  · intro ha
    have ha := (validRegByte_eq_false_iff a).2 ha
    exact ⟨execLdi_invalid ha b s, execPrn_invalid ha s, execMul_invalid_first ha b s,
      execPush_invalid ha s, execPop_invalid ha s⟩
  · intro ha hb
    exact execMul_invalid_second ((validRegByte_iff a).2 ha) ((validRegByte_eq_false_iff b).2 hb) s

/-! ### Start (R110) -/

theorem State.start_of_accepted {s : State} (hr : s.ready = true) (h : s.run = .idle ∨ s.run = .halted) :
    s.start = s.setRun .running :=
  if_pos ⟨hr, h⟩

/-- Settles O49: an accepted start leaves a RUNNING block, whose next step is the run loop's. -/
theorem startRule : Obligations.StartRule := by
  unfold Obligations.StartRule
  intro s hr
  constructor
  · intro hrun
    have hstart := s.start_of_accepted hr hrun
    refine ⟨hstart, ?_⟩
    rw [hstart]
    exact step_running hr rfl
  · intro hrun
    rcases s.start_cases with hstart | ⟨hstopped, -⟩
    · exact hstart
    · rcases hrun with hrun | hrun <;> simp [hrun] at hstopped

end Sys2Proof.Machine
end

section
/-! PROOFS. The statements of spec/41_control.md: what HALT does, at the step and alone, that no other
instruction halts the run loop or leaves the straight path, and the frame of HALT and PRINT_REG. -/

namespace Sys2Proof.Machine

/-! ### The two ends of an instruction -/

theorem exec_completes {i : Instr} {s t : State} (hw : i.wellFormed = true) (h : exec i s = .next t) :
    t = execResult i s := by
  rw [exec_wellFormed hw] at h
  exact (Host.Outcome.next.inj h).symm

theorem exec_raises {i : Instr} {s t : State} (hw : i.wellFormed = false) (h : exec i s = .next t) :
    ∃ p b, t = s.raise (.illegalRegister p b) := by
  obtain ⟨p, b, hx⟩ := exec_illFormed hw s
  rw [hx] at h
  exact ⟨p, b, (Host.Outcome.next.inj h).symm⟩

/-! ### HALT (R120, R121) -/

theorem execResult_halt_pc (s : State) :
    (execResult .halt s).pc = if s.cfg.haltPcZero then 0#16 else s.pc := rfl

/-- Settles O12: HALT checks nothing, so its result is written out by definition. -/
theorem haltCompletes : Obligations.HaltCompletes := by
  unfold Obligations.HaltCompletes
  exact fun _ => rfl

/-- HALT has no operand, so no operand fetch can fault, at pc 255 either. -/
theorem fetchInstr_opHalt (s : State) : s.fetchInstr opHalt = .ok .halt := rfl

/-- Settles O4: the fetched opcode decodes to HALT, which completes on the state with `IR` written. -/
theorem haltStepRule : Obligations.HaltStepRule := by
  unfold Obligations.HaltStepRule
  intro s hr hrun hpc hop
  have hop : s.mem.read s.pc.toNat = opHalt := hop
  have hfetch : (s.setIr (s.mem.read s.pc.toNat)).fetchInstr (s.mem.read s.pc.toNat) = .ok .halt := by
    rw [hop]
    exact fetchInstr_opHalt _
  calc step s
      = runStep s := step_running hr hrun
    _ = exec .halt (s.setIr (s.mem.read s.pc.toNat)) := runStep_of_fetchInstr_ok hpc hfetch
    _ = exec .halt (s.setIr opHalt) := by rw [hop]
    _ = _ := haltCompletes (s.setIr opHalt)

/-- Settles O40: a fault ends in FAULTED, and no other completed instruction changes the run state. -/
theorem onlyHaltHalts : Obligations.OnlyHaltHalts := by
  unfold Obligations.OnlyHaltHalts
  intro i s t h hs ht
  rcases exec_cases h with ⟨-, rfl⟩ | ⟨-, p, b, rfl⟩
  · have hi : i = .halt := by
      by_contra hne
      exact hs ((execResult_run_of_ne_halt hne s).symm.trans ht)
    subst hi
    exact ⟨rfl, execResult_halt_pc s⟩
  · rw [State.raise_run] at ht
    exact nomatch ht

/-! ### Straight-line flow (R122) -/

/-- Settles O18: the pc a completed instruction leaves, with the length read off its encoding. -/
theorem sequentialControlFlow : Obligations.SequentialControlFlow := by
  unfold Obligations.SequentialControlFlow
  intro i s hi hw
  refine ⟨_, exec_wellFormed hw s, ?_, execResult_run_of_ne_halt hi s⟩
  rw [encode_length]
  exact execResult_pc_of_ne_halt hi s

/-! ### Frames -/

/-- The registers an unchanged register file keeps, whatever exceptions are allowed. -/
theorem SameRegsExcept.of_regs_eq {s t : State} (h : t.regs = s.regs) (except : List (Fin 8)) :
    SameRegsExcept except s t :=
  fun q _ => State.getReg_congr h q

theorem SameMem.of_mem_eq {s t : State} (h : t.mem = s.mem) : SameMem s t := fun a => by rw [h]

theorem execResult_sameFixed (i : Instr) (s : State) : SameFixed s (execResult i s) := by
  cases i <;> exact ⟨rfl, rfl, rfl, rfl⟩

theorem raise_sameFixed (s : State) (c : FaultCause) : SameFixed s (s.raise c) :=
  ⟨rfl, rfl, rfl, rfl⟩

theorem raise_sameOut (s : State) (c : FaultCause) : SameOut s (s.raise c) := ⟨rfl, rfl⟩

/-- No instruction, completed or faulting, writes `IR`, `ready`, the configuration or the draw counter. -/
theorem exec_sameFixed {i : Instr} {s t : State} (h : exec i s = .next t) : SameFixed s t := by
  rcases exec_cases h with ⟨-, rfl⟩ | ⟨-, p, b, rfl⟩
  · exact execResult_sameFixed i s
  · exact raise_sameFixed s _

/-- Where every register byte is legal, an instruction but HALT keeps the run state and the fault record. -/
theorem exec_run_sameFaultRecord {i : Instr} {s t : State} (hi : i ≠ .halt) (hw : i.wellFormed = true)
    (h : exec i s = .next t) : t.run = s.run ∧ SameFaultRecord s t := by
  obtain rfl := exec_completes hw h
  exact ⟨execResult_run_of_ne_halt hi s, execResult_sameFaultRecord i s⟩

/-- PRINT_REG writes no register and no memory, whether it emits or faults (42_register_io R134). -/
theorem exec_prn_regs_mem {r : Byte} {s t : State} (h : exec (.prn r) s = .next t) :
    t.regs = s.regs ∧ t.mem = s.mem := by
  rcases exec_cases h with ⟨-, rfl⟩ | ⟨-, p, b, rfl⟩
  · exact ⟨rfl, rfl⟩
  · exact ⟨rfl, rfl⟩

/-- Settles O26: HALT completes on every state; PRINT_REG's legal and illegal register byte are the two
ends of an instruction. -/
theorem haltPrintFrame : Obligations.HaltPrintFrame := by
  unfold Obligations.HaltPrintFrame
  constructor
  · intro s t h
    have hfixed := exec_sameFixed h
    obtain rfl := exec_completes rfl h
    exact ⟨.of_regs_eq rfl [], .of_mem_eq rfl, ⟨rfl, rfl⟩, hfixed, execResult_sameFaultRecord .halt s⟩
  · intro r s t h
    obtain ⟨hregs, hmem⟩ := exec_prn_regs_mem h
    refine ⟨.of_regs_eq hregs [], .of_mem_eq hmem, exec_sameFixed h, ?_, ?_⟩
    · intro hr
      have hw : (Instr.prn r).wellFormed = true := (validRegByte_iff r).2 hr
      exact exec_run_sameFaultRecord Instr.noConfusion hw h
    · intro hr
      have hw : (Instr.prn r).wellFormed = false := (validRegByte_eq_false_iff r).2 hr
      obtain ⟨p, b, rfl⟩ := exec_raises hw h
      exact raise_sameOut s _

end Sys2Proof.Machine
end

section
/-! PROOFS. The statements of spec/42_register_io.md: LOAD_IMMEDIATE and PRINT_REG, at the step and
alone, the frame of the instructions that write one register, and the output handshake. The operand
fetches of the two-byte and the three-byte instructions come first. -/

namespace Sys2Proof.Machine

/-! ### The operand fetches (40_fetch_decode R101 to R103) -/

theorem fetch_operand_inRange {s : State} {k : Nat} (hk : k < 3) (h : s.pc.toNat + k < memSize) :
    s.fetch (pcPlus s.pc k) = .ok (s.mem.read (s.pc.toNat + k)) :=
  fetch_of_codeBytes (bytesFrom_getElem?_eq_some_iff.2 ⟨hk, h, rfl⟩)

theorem fetch_operand_outOfRange {s : State} {k : Nat} (hk : k < 3) (hpc : s.pc.toNat < memSize)
    (h : memSize ≤ s.pc.toNat + k) :
    s.fetch (pcPlus s.pc k) = .error (.memOutOfRange (pcPlus s.pc k)) := by
  have haddr : (pcPlus s.pc k).toNat = s.pc.toNat + k := pcPlus_toNat hpc (by omega)
  exact fetch_of_ge s (by omega)

/-- A two-byte instruction: its operand byte is fetched, or its fetch faults. -/
theorem runStep_oneOperand {s : State} {op : Byte} (mk : Byte → Instr) (hpc : s.pc.toNat < memSize)
    (hop : s.mem.read s.pc.toNat = op)
    (hfetch : (s.setIr op).fetchInstr op = (s.fetch (pcPlus s.pc 1)).map mk) :
    runStep s =
      if 256 ≤ s.pc.toNat + 1 then .next ((s.setIr op).raise (.memOutOfRange (pcPlus s.pc 1)))
      else exec (mk (s.mem.read (s.pc.toNat + 1))) (s.setIr op) := by
  subst hop
  split_ifs with h1
  · rw [fetch_operand_outOfRange (by decide) hpc h1] at hfetch
    exact runStep_of_fetchInstr_error hpc hfetch
  · rw [fetch_operand_inRange (by decide) (Nat.not_le.1 h1)] at hfetch
    exact runStep_of_fetchInstr_ok hpc hfetch

/-- A three-byte instruction: both operand bytes are fetched, or the first fetch past the end faults. -/
theorem runStep_twoOperands {s : State} {op : Byte} (mk : Byte → Byte → Instr)
    (hpc : s.pc.toNat < memSize) (hop : s.mem.read s.pc.toNat = op)
    (hfetch : (s.setIr op).fetchInstr op =
      (s.fetch (pcPlus s.pc 1)).bind fun a => (s.fetch (pcPlus s.pc 2)).map (mk a)) :
    runStep s =
      if 256 ≤ s.pc.toNat + 1 then .next ((s.setIr op).raise (.memOutOfRange (pcPlus s.pc 1)))
      else if 256 ≤ s.pc.toNat + 2 then .next ((s.setIr op).raise (.memOutOfRange (pcPlus s.pc 2)))
      else exec (mk (s.mem.read (s.pc.toNat + 1)) (s.mem.read (s.pc.toNat + 2))) (s.setIr op) := by
  subst hop
  split_ifs with h1 h2
  · rw [fetch_operand_outOfRange (by decide) hpc h1] at hfetch
    exact runStep_of_fetchInstr_error hpc hfetch
  · rw [fetch_operand_inRange (by decide) (Nat.not_le.1 h1),
      fetch_operand_outOfRange (by decide) hpc h2] at hfetch
    exact runStep_of_fetchInstr_error hpc hfetch
  · rw [fetch_operand_inRange (by decide) (Nat.not_le.1 h1),
      fetch_operand_inRange (by decide) (Nat.not_le.1 h2)] at hfetch
    exact runStep_of_fetchInstr_ok hpc hfetch

theorem fetchInstr_opLdi (s : State) : s.fetchInstr opLdi =
    (s.fetch (pcPlus s.pc 1)).bind fun r => (s.fetch (pcPlus s.pc 2)).map (.ldi r) := rfl

theorem fetchInstr_opPrn (s : State) : s.fetchInstr opPrn = (s.fetch (pcPlus s.pc 1)).map .prn := rfl

/-! ### LOAD_IMMEDIATE (R130, R131) -/

/-- Settles O13, as the result of the legal register byte that names `r`. -/
theorem loadImmediateCompletes : Obligations.LoadImmediateCompletes := by
  unfold Obligations.LoadImmediateCompletes
  intro r v s
  have hx : exec (.ldi (BitVec.ofNat 8 r) v) s =
      .next ((s.setReg (lowIndex (BitVec.ofNat 8 r)) v).advancePc 3) :=
    execLdi_valid (validRegByte_ofFin r) v s
  rw [hx, lowIndex_ofFin]
  rfl

theorem exec_ldi_of_lt {r : Byte} (h : r.toNat < 8) (v : Byte) (s : State) :
    exec (.ldi r v) s = .next { s with regs := s.regs.set r.toNat v, pc := s.pc + 3#16 } := by
  simpa using loadImmediateCompletes ⟨r.toNat, h⟩ v s

/-- Settles O5: the two operand fetches, then the register check. -/
theorem loadImmediateStepRule : Obligations.LoadImmediateStepRule := by
  unfold Obligations.LoadImmediateStepRule
  intro s hr hrun hpc hop s1 rb1 v
  rw [step_running hr hrun, runStep_twoOperands .ldi hpc hop (fetchInstr_opLdi _)]
  split_ifs with h1 h2 hreg
  · rfl
  · rfl
  · exact exec_ldi_of_lt hreg v s1
  · exact execLdi_invalid ((validRegByte_eq_false_iff rb1).2 (Nat.not_lt.1 hreg)) v s1

/-! ### PRINT_REG (R134) -/

/-- Settles O14, as the result of the legal register byte that names `r`. -/
theorem printRegCompletes : Obligations.PrintRegCompletes := by
  unfold Obligations.PrintRegCompletes
  intro r s
  have hx : exec (.prn (BitVec.ofNat 8 r)) s =
      .next ((s.emit (s.getReg (lowIndex (BitVec.ofNat 8 r)))).advancePc 2) :=
    execPrn_valid (validRegByte_ofFin r) s
  rw [hx, lowIndex_ofFin]
  rfl

theorem exec_prn_of_lt {r : Byte} (h : r.toNat < 8) (s : State) :
    exec (.prn r) s =
      .next { s with out := s.out ++ [s.regs[r.toNat]], pendingOut := none, pc := s.pc + 2#16 } := by
  simpa using printRegCompletes ⟨r.toNat, h⟩ s

/-- Settles O6: the operand fetch, then the register check. -/
theorem printRegStepRule : Obligations.PrintRegStepRule := by
  unfold Obligations.PrintRegStepRule
  intro s hr hrun hpc hop s1 rb1
  rw [step_running hr hrun, runStep_oneOperand .prn hpc hop (fetchInstr_opPrn _)]
  split_ifs with h1 hreg
  · rfl
  · exact exec_prn_of_lt hreg s1
  · exact execPrn_invalid ((validRegByte_eq_false_iff rb1).2 (Nat.not_lt.1 hreg)) s1

/-- Settles O31: PRINT_REG reads the register that LOAD_IMMEDIATE has just written. -/
theorem loadThenPrintEmits : Obligations.LoadThenPrintEmits := by
  unfold Obligations.LoadThenPrintEmits
  intro r v s
  refine ⟨_, _, loadImmediateCompletes r v s, printRegCompletes r _, ?_⟩
  have hread : (s.regs.set r v)[r] = v := Vector.getElem_set_self r.isLt
  exact congrArg (fun b => s.out ++ [b]) hread

/-! ### The instructions that write one register -/

/-- What an instruction keeps that can only write register `r` or fault. -/
theorem exec_frame_of_registerWrite {i : Instr} {s t : State} {r : Fin 8}
    (hi : ∃ v len, execResult i s = (s.setReg r v).advancePc len) (h : exec i s = .next t) :
    SameRegsExcept [r] s t ∧ SameMem s t ∧ SameOut s t := by
  obtain ⟨v, len, hi⟩ := hi
  rcases exec_cases h with ⟨-, rfl⟩ | ⟨-, p, b, rfl⟩
  · rw [hi]
    refine ⟨fun q hq => ?_, .of_mem_eq rfl, ⟨rfl, rfl⟩⟩
    have hne : r ≠ q := fun hrq => hq (List.mem_singleton.2 hrq.symm)
    exact s.getReg_setReg_ne v hne
  · exact ⟨.of_regs_eq rfl [r], .of_mem_eq rfl, raise_sameOut s _⟩

/-- Settles O25: a completed LOAD_IMMEDIATE or MULTIPLY is one register write and the pc. -/
theorem registerWritingFrame : Obligations.RegisterWritingFrame := by
  unfold Obligations.RegisterWritingFrame
  constructor
  · intro r v s t h
    obtain ⟨hregs, hmem, hout⟩ := exec_frame_of_registerWrite ⟨_, _, rfl⟩ h
    refine ⟨hregs, hmem, hout, exec_sameFixed h, fun hr => ?_⟩
    have hw : (Instr.ldi r v).wellFormed = true := (validRegByte_iff r).2 hr
    exact exec_run_sameFaultRecord Instr.noConfusion hw h
  · intro a b s t h
    obtain ⟨hregs, hmem, hout⟩ := exec_frame_of_registerWrite ⟨_, _, rfl⟩ h
    refine ⟨hregs, hmem, hout, exec_sameFixed h, fun ha hb => ?_⟩
    have hw : (Instr.mul a b).wellFormed = true :=
      (Bool.and_eq_true _ _).mpr ⟨(validRegByte_iff a).2 ha, (validRegByte_iff b).2 hb⟩
    exact exec_run_sameFaultRecord Instr.noConfusion hw h

/-! ### The output handshake (R133) -/

/-- Without `out_ready` the port holds, whatever waits there. -/
@[simp] theorem State.outputCycle_false (s : State) : s.outputCycle false = s := by
  cases h : s.pendingOut <;> simp [State.outputCycle, h]

/-- Settles O55: a cycle without `out_ready` fixes the state, so any number of them does. -/
theorem outputHandshake : Obligations.OutputHandshake := by
  unfold Obligations.OutputHandshake
  intro s v n
  have hheld : (fun t : State => t.outputCycle false)^[n] (s.driveOutput v) = s.driveOutput v :=
    Function.iterate_fixed (s.driveOutput v).outputCycle_false n
  rw [hheld]
  exact ⟨rfl, rfl, rfl⟩

end Sys2Proof.Machine
end

section
/-! PROOFS. The statements of spec/43_alu.md: the ALU function and its signed reading, the select that no
program reaches, and MULTIPLY, at the step and alone. -/

namespace Sys2Proof.Machine

/-! ### The selects of the ALU (R141, R145) -/

theorem alu_add (a b : Byte) : alu aluAdd a b = .ok (a + b) := by
  have hsum : BitVec.ofNat 8 (a.toNat + b.toNat) = a + b := by simp [BitVec.ofNat_add]
  rw [alu, if_pos rfl, hsum]

/-- The 256 added before the reduction keeps the difference from below 0. -/
theorem alu_sub (a b : Byte) : alu aluSub a b = .ok (a - b) := by
  have hdiff : BitVec.ofNat 8 (a.toNat + 256 - b.toNat) = a - b := by bv_omega
  rw [alu, if_neg (by decide), if_pos rfl, hdiff]

theorem alu_unsupported (a b : Byte) : alu 0b11#2 a b = .error (.unsupportedAluOp 0b11#2) := rfl

/-! ### The ALU on integers (R141) -/

theorem ofInt_emod_256 (x : Int) : BitVec.ofInt 8 (x % 256) = BitVec.ofInt 8 x := by
  apply BitVec.eq_of_toInt_eq
  rw [BitVec.toInt_ofInt, BitVec.toInt_ofInt]
  exact Int.emod_bmod x 256

theorem ofInt_toNat_sub (a b : Byte) : BitVec.ofInt 8 ((a.toNat : Int) - b.toNat) = a - b := by
  simp [Int.sub_eq_add_neg, BitVec.ofInt_add, BitVec.ofInt_neg, BitVec.sub_eq_add_neg]

/-- Settles O29: `BitVec.ofInt 8` reduces modulo 256, so each exact result is the byte operation. -/
theorem aluFunction : Obligations.AluFunction := by
  unfold Obligations.AluFunction
  intro a b
  refine ⟨?_, ?_, ?_, alu_unsupported a b⟩
  · refine (alu_add a b).trans (congrArg Except.ok ?_)
    simp [ofInt_emod_256, BitVec.ofInt_add]
  · refine (alu_sub a b).trans (congrArg Except.ok ?_)
    simp [ofInt_emod_256, ofInt_toNat_sub]
  · refine (alu_mul a b).trans (congrArg Except.ok ?_)
    simp [ofInt_emod_256, BitVec.ofInt_mul]

/-! ### The signed reading (R147) -/

/-- A signed byte that is an integer's balanced residue modulo 256 differs from it by a multiple of 256. -/
theorem toInt_sub_emod_256 {y : Byte} {n : Int} (h : y.toInt = n.bmod 256) :
    (y.toInt - n) % 256 = 0 := by
  rw [h]
  exact Int.emod_eq_zero_of_dvd Int.dvd_bmod_sub_self

/-- Settles O30: the byte operations read signed are the balanced residues of the exact results. -/
theorem aluSignedReading : Obligations.AluSignedReading := by
  unfold Obligations.AluSignedReading
  intro a b y
  refine ⟨fun h => ?_, fun h => ?_, fun h => ?_⟩
  · obtain rfl : a + b = y := Except.ok.inj ((alu_add a b).symm.trans h)
    exact toInt_sub_emod_256 (BitVec.toInt_add a b)
  · obtain rfl : a - b = y := Except.ok.inj ((alu_sub a b).symm.trans h)
    exact toInt_sub_emod_256 BitVec.toInt_sub
  · obtain rfl : a * b = y := Except.ok.inj ((alu_mul a b).symm.trans h)
    exact toInt_sub_emod_256 (BitVec.toInt_mul a b)

/-! ### The fourth select is out of reach (R145) -/

/-- The only select a control word has is MUL (30_encoding R87). -/
theorem controlWord_aluOp {op : Byte} {cw : ControlWord} (h : controlWord op = some cw) :
    cw.aluOp = none ∨ cw.aluOp = some aluMul := by
  unfold controlWord at h
  split_ifs at h with hhalt hldi hprn hmul hpush hpop <;> cases h
  · exact .inl rfl
  · exact .inl rfl
  · exact .inl rfl
  · exact .inr rfl
  · exact .inl rfl
  · exact .inl rfl

/-- A step writes `FAULT_CODE` only where a fault is entered. -/
theorem ReadyStep.faultCode_cases {s t : State} (h : ReadyStep s t) :
    t.faultCode = s.faultCode ∨ ReachableCode t.faultCode := by
  cases h with
  | idles hrun => exact .inl rfl
  | opcodeFetchFaults hrun => exact .inr (memOutOfRange_reachable s.pc)
  | laterCheckFaults hrun c hc => exact .inr hc
  | completes hrun hpc i hop => exact .inl (execResult_sameFaultRecord i _).code

theorem ReachableCode.ne_unsupportedAluOp {code : Byte} (h : ReachableCode code) : code ≠ 0x04#8 := by
  rcases h with rfl | rfl | rfl <;> decide

/-- Settles O24: a step keeps the fault code or writes a reachable one, and a reset sequence ends with 0. -/
theorem unsupportedAluOpUnreachable : Obligations.UnsupportedAluOpUnreachable := by
  unfold Obligations.UnsupportedAluOpUnreachable
  refine ⟨alu_unsupported, fun op cw hcw => ?_, fun s t hs h => ?_⟩
  · rcases controlWord_aluOp hcw with hop | hop
    · rw [hop]
      decide
    · rw [hop]
      decide
  · cases hr : s.ready with
    | false =>
      rw [step_notReady hr] at h
      obtain rfl := Host.Outcome.next.inj h
      have hcode : s.completeReset.faultCode = 0#8 := State.resetWith_faultCode s.cfg s.draws
      rw [hcode]
      decide
    | true =>
      rcases (readyStep_of_step hr h).faultCode_cases with hcode | hcode
      · rwa [hcode]
      · exact hcode.ne_unsupportedAluOp

/-! ### MULTIPLY (R144, R150, R151) -/

theorem mul_eq_ofNat_mod_256 (a b : Byte) : a * b = BitVec.ofNat 8 (a.toNat * b.toNat % 256) := by
  simp [ofNat_mod_256, BitVec.ofNat_mul]

/-- Settles O15, as the result of the legal register bytes that name `a` and `b`. -/
theorem multiplyCompletes : Obligations.MultiplyCompletes := by
  unfold Obligations.MultiplyCompletes
  refine ⟨fun x y => ?_, fun a b s => ?_⟩
  · rw [← mul_eq_ofNat_mod_256]
    exact alu_mul x y
  · have hx : exec (.mul (BitVec.ofNat 8 a) (BitVec.ofNat 8 b)) s = _ :=
      execMul_valid (validRegByte_ofFin a) (validRegByte_ofFin b) s
    rw [hx, lowIndex_ofFin, lowIndex_ofFin, mul_eq_ofNat_mod_256]
    rfl

theorem exec_mul_of_lt {a b : Byte} (ha : a.toNat < 8) (hb : b.toNat < 8) (s : State) :
    exec (.mul a b) s =
      .next { s with regs := s.regs.set a.toNat
                       (BitVec.ofNat 8 (s.regs[a.toNat].toNat * s.regs[b.toNat].toNat % 256))
                     pc := s.pc + 3#16 } := by
  simpa using multiplyCompletes.2 ⟨a.toNat, ha⟩ ⟨b.toNat, hb⟩ s

theorem fetchInstr_opMul (s : State) : s.fetchInstr opMul =
    (s.fetch (pcPlus s.pc 1)).bind fun a => (s.fetch (pcPlus s.pc 2)).map (.mul a) := rfl

/-- Settles O7: the two operand fetches, then the check of each register byte in turn. -/
theorem multiplyStepRule : Obligations.MultiplyStepRule := by
  unfold Obligations.MultiplyStepRule
  intro s hr hrun hpc hop s1 rb1 rb2
  rw [step_running hr hrun, runStep_twoOperands .mul hpc hop (fetchInstr_opMul _)]
  split_ifs with h1 h2 ha hb
  · rfl
  · rfl
  · exact exec_mul_of_lt ha hb s1
  · exact execMul_invalid_second ((validRegByte_iff rb1).2 ha)
      ((validRegByte_eq_false_iff rb2).2 (Nat.not_lt.1 hb)) s1
  · exact execMul_invalid_first ((validRegByte_eq_false_iff rb1).2 (Nat.not_lt.1 ha)) rb2 s1

end Sys2Proof.Machine
end

section
/-! PROOFS. The statements of spec/44_stack.md: PUSH and POP, at the step and alone, what each leaves
unchanged, and when one undoes the other. -/

namespace Sys2Proof.Machine

/-! ### Stack-pointer arithmetic (R161, R162) -/

theorem spDec_ne_self (v : Byte) : spDec v ≠ v := by
  rw [spDec_eq]
  bv_omega

theorem spInc_ne_self (v : Byte) : spInc v ≠ v := by
  rw [spInc_eq]
  bv_omega

theorem sub_one_eq_ofNat_mod_256 (v : Byte) : v - 1#8 = BitVec.ofNat 8 ((v.toNat + 255) % 256) := by
  bv_omega

theorem add_one_eq_ofNat_mod_256 (v : Byte) : v + 1#8 = BitVec.ofNat 8 ((v.toNat + 1) % 256) := by
  bv_omega

/-! ### PUSH (R164, R165) -/

/-- Settles O16, as the result of the legal register byte that names `r`; the address is register 7 of
the register file that the decrement leaves. -/
theorem pushCompletes : Obligations.PushCompletes := by
  unfold Obligations.PushCompletes
  intro r s
  have hx : exec (.push (BitVec.ofNat 8 r)) s = _ := execPush_valid (validRegByte_ofFin r) s
  have haddr : pushAddr s = (s.regs.set 7 (s.regs[7] - 1#8))[7].toNat := by
    rw [pushAddr_eq, Vector.getElem_set_self]
    rfl
  rw [hx, lowIndex_ofFin, haddr, pushValue, spDec_eq]
  rfl

theorem exec_push_of_lt {r : Byte} (h : r.toNat < 8) (s : State) :
    exec (.push r) s =
      let sp := BitVec.ofNat 8 ((s.regs[7].toNat + 255) % 256)
      let regs := s.regs.set 7 sp
      .next { s with regs := regs, mem := s.mem.write sp.toNat regs[r.toNat], pc := s.pc + 2#16 } := by
  simpa [← sub_one_eq_ofNat_mod_256] using pushCompletes ⟨r.toNat, h⟩ s

theorem fetchInstr_opPush (s : State) : s.fetchInstr opPush = (s.fetch (pcPlus s.pc 1)).map .push := rfl

/-- Settles O8: the operand fetch, then the register check. -/
theorem pushStepRule : Obligations.PushStepRule := by
  unfold Obligations.PushStepRule
  intro s hr hrun hpc hop s1 rb1
  rw [step_running hr hrun, runStep_oneOperand .push hpc hop (fetchInstr_opPush _)]
  split_ifs with h1 hreg
  · rfl
  · exact exec_push_of_lt hreg s1
  · exact execPush_invalid ((validRegByte_eq_false_iff rb1).2 (Nat.not_lt.1 hreg)) s1

/-! ### POP (R167, R168) -/

/-- Settles O17, as the result of the legal register byte that names `r`. -/
theorem popCompletes : Obligations.PopCompletes := by
  unfold Obligations.PopCompletes
  intro r s
  have hx : exec (.pop (BitVec.ofNat 8 r)) s = _ := execPop_valid (validRegByte_ofFin r) s
  rw [hx, lowIndex_ofFin, spInc_eq]
  rfl

theorem exec_pop_of_lt {r : Byte} (h : r.toNat < 8) (s : State) :
    exec (.pop r) s =
      let regs := s.regs.set r.toNat (s.mem.read s.regs[7].toNat)
      .next { s with regs := regs.set 7 (BitVec.ofNat 8 ((regs[7].toNat + 1) % 256))
                     pc := s.pc + 2#16 } := by
  simpa [← add_one_eq_ofNat_mod_256] using popCompletes ⟨r.toNat, h⟩ s

theorem fetchInstr_opPop (s : State) : s.fetchInstr opPop = (s.fetch (pcPlus s.pc 1)).map .pop := rfl

/-- Settles O9: the operand fetch, then the register check. -/
theorem popStepRule : Obligations.PopStepRule := by
  unfold Obligations.PopStepRule
  intro s hr hrun hpc hop s1 rb1
  rw [step_running hr hrun, runStep_oneOperand .pop hpc hop (fetchInstr_opPop _)]
  split_ifs with h1 hreg
  · rfl
  · exact exec_pop_of_lt hreg s1
  · exact execPop_invalid ((validRegByte_eq_false_iff rb1).2 (Nat.not_lt.1 hreg)) s1

/-! ### Frames -/

/-- A write to a register that is excepted. -/
theorem SameRegsExcept.setReg {l : List (Fin 8)} {s t : State} (h : SameRegsExcept l s t) {i : Fin 8}
    (hi : i ∈ l) (v : Byte) : SameRegsExcept l s (t.setReg i v) := fun q hq =>
  (t.getReg_setReg_ne v (ne_of_mem_of_not_mem hi hq)).trans (h q hq)

theorem SameRegsExcept.refl (l : List (Fin 8)) (s : State) : SameRegsExcept l s s := .of_regs_eq rfl l

/-- PUSH writes register 7 and one cell, or faults. -/
theorem exec_push_frame {r : Byte} {s t : State} (h : exec (.push r) s = .next t) :
    SameRegsExcept [7] s t ∧ SameOut s t ∧ ∀ b, b ≠ pushAddr s → t.mem.read b = s.mem.read b := by
  rcases exec_cases h with ⟨-, rfl⟩ | ⟨-, p, b, rfl⟩
  · refine ⟨(SameRegsExcept.refl [7] s).setReg (List.mem_singleton_self 7) _, ⟨rfl, rfl⟩, fun b hb => ?_⟩
    rw [execResult_push_read, if_neg hb]
  · exact ⟨.of_regs_eq rfl [7], raise_sameOut s _, fun _ _ => rfl⟩

/-- Settles O27, by `exec_push_frame` and what every instruction keeps. -/
theorem pushFrame : Obligations.PushFrame := by
  unfold Obligations.PushFrame
  intro r s t h
  obtain ⟨hregs, hout, hmem⟩ := exec_push_frame h
  refine ⟨hregs, hout, exec_sameFixed h, fun a b ha hb => hmem b (ha ▸ hb), fun hr => ?_⟩
  have hw : (Instr.push r).wellFormed = true := (validRegByte_iff r).2 hr
  exact exec_run_sameFaultRecord Instr.noConfusion hw h

/-- POP writes its destination and then register 7, or faults. -/
theorem exec_pop_frame {r : Byte} {s t : State} (h : exec (.pop r) s = .next t) :
    SameRegsExcept [lowIndex r, 7] s t ∧ SameMem s t ∧ SameOut s t := by
  rcases exec_cases h with ⟨-, rfl⟩ | ⟨-, p, b, rfl⟩
  · have hpopped : SameRegsExcept [lowIndex r, 7] s (popped s (lowIndex r)) :=
      (SameRegsExcept.refl _ s).setReg List.mem_cons_self _
    exact ⟨hpopped.setReg (List.mem_cons_of_mem _ List.mem_cons_self) _, .of_mem_eq rfl, ⟨rfl, rfl⟩⟩
  · exact ⟨.of_regs_eq rfl _, .of_mem_eq rfl, raise_sameOut s _⟩

/-- Settles O28, by `exec_pop_frame` and what every instruction keeps. -/
theorem popFrame : Obligations.PopFrame := by
  unfold Obligations.PopFrame
  intro r s t h
  obtain ⟨hregs, hmem, hout⟩ := exec_pop_frame h
  refine ⟨hregs, hmem, hout, exec_sameFixed h, fun hr => ?_⟩
  have hw : (Instr.pop r).wellFormed = true := (validRegByte_iff r).2 hr
  exact exec_run_sameFaultRecord Instr.noConfusion hw h

/-! ### PUSH then POP (R169) -/

theorem pushValue_sp (s : State) : pushValue s spIndex = spDec s.sp := s.getReg_setReg_same spIndex _

theorem pushValue_of_ne_sp (s : State) {r : Fin 8} (h : r ≠ spIndex) : pushValue s r = s.getReg r :=
  s.getReg_setReg_ne _ h.symm

theorem popped_getReg (s : State) (q : Fin 8) : (popped s q).getReg q = s.mem.read s.sp.toNat :=
  s.getReg_setReg_same q _

theorem popped_sp_of_ne_sp (s : State) {q : Fin 8} (h : q ≠ spIndex) : (popped s q).sp = s.sp :=
  s.getReg_setReg_ne _ h

theorem execResult_push_sp (a : Byte) (s : State) : (execResult (.push a) s).sp = spDec s.sp :=
  s.getReg_setReg_same spIndex _

/-- PUSH leaves the value it stored on top of the stack. -/
theorem execResult_push_top (a : Byte) (s : State) :
    (execResult (.push a) s).mem.read (spDec s.sp).toNat = pushValue s (lowIndex a) := by
  have htop : (spDec s.sp).toNat = pushAddr s := (dataAddr_toNat _).symm
  rw [execResult_push_read, if_pos htop]

theorem execResult_pop_mem (b : Byte) (s : State) : (execResult (.pop b) s).mem = s.mem := rfl

theorem execResult_pop_sp (b : Byte) (s : State) :
    (execResult (.pop b) s).sp = spInc (popped s (lowIndex b)).sp :=
  State.getReg_setReg_same _ spIndex _

theorem execResult_pop_getReg_of_ne_sp {b : Byte} (h : lowIndex b ≠ spIndex) (s : State) :
    (execResult (.pop b) s).getReg (lowIndex b) = s.mem.read s.sp.toNat :=
  (State.getReg_setReg_ne _ _ h.symm).trans (popped_getReg s _)

/-- The byte below the old top of the stack, after PUSH and POP: POP does not clear its cell. -/
theorem push_pop_read (a b : Byte) (s : State) :
    (execResult (.pop b) (execResult (.push a) s)).mem.read (s.sp - 1#8).toNat =
      pushValue s (lowIndex a) := by
  rw [execResult_pop_mem, ← spDec_eq, execResult_push_top]

/-- A POP into another register than 7 takes the pushed value and restores the stack pointer. -/
theorem push_pop_of_ne_sp (a : Byte) {b : Byte} (h : lowIndex b ≠ spIndex) (s : State) :
    (execResult (.pop b) (execResult (.push a) s)).getReg (lowIndex b) = pushValue s (lowIndex a) ∧
      (execResult (.pop b) (execResult (.push a) s)).sp = s.sp := by
  constructor
  · rw [execResult_pop_getReg_of_ne_sp h, execResult_push_sp, execResult_push_top]
  · rw [execResult_pop_sp, popped_sp_of_ne_sp _ h, execResult_push_sp, spInc_spDec]

/-- A POP into register 7 leaves there the pushed value, incremented. -/
theorem push_pop_sp (a : Byte) {b : Byte} (h : lowIndex b = spIndex) (s : State) :
    (execResult (.pop b) (execResult (.push a) s)).getReg (lowIndex b) =
      spInc (pushValue s (lowIndex a)) := by
  rw [h, ← State.sp, execResult_pop_sp, h, State.sp, popped_getReg, execResult_push_sp,
    execResult_push_top]

/-- A PUSH of register 7 stores the decremented stack pointer, not the old one; a POP into register 7
increments what it took. -/
theorem balanced_push_pop_iff (a b : Byte) (s : State) :
    Balanced s (execResult (.pop b) (execResult (.push a) s)) (lowIndex a) (lowIndex b) ↔
      lowIndex a ≠ spIndex ∧ lowIndex b ≠ spIndex := by
  constructor
  · rintro ⟨hvalue, -, hmem⟩
    rw [push_pop_read] at hmem
    constructor
    · intro ha
      rw [ha, pushValue_sp] at hmem
      exact spDec_ne_self s.sp hmem
    · intro hb
      rw [push_pop_sp a hb, ← hmem] at hvalue
      exact spInc_ne_self _ hvalue
  · rintro ⟨ha, hb⟩
    obtain ⟨hvalue, hsp⟩ := push_pop_of_ne_sp a hb s
    have hpushed := pushValue_of_ne_sp s ha
    exact ⟨hvalue.trans hpushed, hsp, (push_pop_read a b s).trans hpushed⟩

/-- Settles O32: both instructions complete, and `balanced_push_pop_iff` says when they balance. -/
theorem pushPopBalanced : Obligations.PushPopBalanced := by
  unfold Obligations.PushPopBalanced
  intro r q s
  have hiff := balanced_push_pop_iff (BitVec.ofNat 8 r) (BitVec.ofNat 8 q) s
  rw [lowIndex_ofFin, lowIndex_ofFin] at hiff
  have hpush : (Instr.push (BitVec.ofNat 8 r)).wellFormed = true := validRegByte_ofFin r
  have hpop : (Instr.pop (BitVec.ofNat 8 q)).wellFormed = true := validRegByte_ofFin q
  refine ⟨_, _, exec_wellFormed hpush s, exec_wellFormed hpop _, hiff.2, ?_⟩
  rintro (rfl | rfl) hbal
  · exact (hiff.1 hbal).1 rfl
  · exact (hiff.1 hbal).2 rfl

end Sys2Proof.Machine
end

section
/-! PROOFS. The statements of spec/60_exceptions.md: what fault entry records, that every step answers a
next state, which fault a step raises, what a faulting step leaves unchanged, and how FAULTED is left. -/

namespace Sys2Proof.Machine

/-! ### Fault entry (R181, R182) -/

/-- FAULT_INFO of IllegalRegister: the position in the high byte, the operand byte in the low one. -/
theorem illegalRegister_info_eq_append (p b : Byte) : (FaultCause.illegalRegister p b).info = p ++ b := by
  apply BitVec.eq_of_toNat_eq
  rw [illegalRegister_info_toNat, BitVec.toNat_append, ← Nat.shiftLeft_add_eq_or_of_lt b.isLt,
    Nat.shiftLeft_eq]

/-- Settles O21: entry and the table of R181 by definition, but for the pair
(`illegalRegister_info_eq_append`). -/
theorem faultEntryRecord : Obligations.FaultEntryRecord := by
  unfold Obligations.FaultEntryRecord
  exact ⟨fun _ _ => rfl, fun _ => ⟨rfl, rfl⟩, fun _ => ⟨rfl, rfl⟩,
    fun p b => ⟨rfl, illegalRegister_info_eq_append p b⟩, fun _ => ⟨rfl, rfl⟩⟩

/-! ### Every step answers (40_fetch_decode R100, R101) -/

theorem runStep_answers_next (s : State) : ∃ t, runStep s = .next t := by
  by_cases hpc : s.pc.toNat < memSize
  · cases hfetch : (s.setIr (s.mem.read s.pc.toNat)).fetchInstr (s.mem.read s.pc.toNat) with
    | error c => exact ⟨_, runStep_of_fetchInstr_error hpc hfetch⟩
    | ok i =>
      rw [runStep_of_fetchInstr_ok hpc hfetch]
      exact exec_answers_next i _
  · exact ⟨_, runStep_outOfRange (Nat.not_lt.1 hpc)⟩

theorem step_answers_next (s : State) : ∃ t, step s = .next t := by
  cases hr : s.ready with
  | false => exact ⟨_, step_notReady hr⟩
  | true =>
    by_cases hrun : s.run = .running
    · rw [step_running hr hrun]
      exact runStep_answers_next s
    · exact ⟨_, step_stopped hr hrun⟩

/-- Settles O3, from what one step and one instruction answer. -/
theorem everyStepAnswersNext : Obligations.EveryStepAnswersNext := by
  unfold Obligations.EveryStepAnswersNext
  exact ⟨step_answers_next, exec_answers_next⟩

/-! ### Faults are precise (R185) -/

/-- A completed instruction never ends in FAULTED: HALT ends in HALTED, any other keeps the run state. -/
theorem execResult_run_ne_faulted {s : State} (h : s.run ≠ .faulted) (i : Instr) :
    (execResult i s).run ≠ .faulted := by
  by_cases hi : i = .halt
  · subst hi
    exact RunState.noConfusion
  · rwa [execResult_run_of_ne_halt hi]

/-- A step with `ready = 1` that ends in FAULTED idled there, or entered a fault, which writes the fault
record alone. -/
theorem ReadyStep.precise {s t : State} (h : ReadyStep s t) (ht : t.run = .faulted) :
    t.out = s.out ∧ t.pendingOut = s.pendingOut ∧ t.mem = s.mem ∧ t.regs = s.regs ∧ t.pc = s.pc := by
  cases h with
  | idles hrun => exact ⟨rfl, rfl, rfl, rfl, rfl⟩
  | opcodeFetchFaults hrun => exact ⟨rfl, rfl, rfl, rfl, rfl⟩
  | laterCheckFaults hrun c hc => exact ⟨rfl, rfl, rfl, rfl, rfl⟩
  | completes hrun hpc i hop =>
    have hne : (s.setIr (s.mem.read s.pc.toNat)).run ≠ .faulted := by simp [hrun]
    exact absurd ht (execResult_run_ne_faulted hne i)

/-- Settles O23: the end of a reset sequence is IDLE, and `ReadyStep.precise` says the rest. -/
theorem faultsArePrecise : Obligations.FaultsArePrecise := by
  unfold Obligations.FaultsArePrecise
  intro s t h ht
  cases hr : s.ready with
  | false =>
    rw [step_notReady hr] at h
    obtain rfl := Host.Outcome.next.inj h
    exact nomatch ht
  | true => exact (readyStep_of_step hr h).precise ht

/-! ### FAULTED is left only by reset (R184) -/

theorem State.start_ready (s : State) : s.start.ready = s.ready := by
  rcases s.start_cases with hs | ⟨-, hs⟩
  · rw [hs]
  · rw [hs, State.setRun_ready]

theorem State.loaderWrite_ready (s : State) (addr data : Byte) :
    (s.loaderWrite addr data).ready = s.ready := by
  unfold State.loaderWrite
  split <;> rfl

theorem loadFrom_ready (bytes : List Nat) :
    ∀ (s : State) (addr : Nat), (loadFrom s addr bytes).ready = s.ready := by
  induction bytes with
  | nil => intro s addr; rfl
  | cons b bs ih =>
    intro s addr
    rw [loadFrom, ih, State.loaderWrite_ready]

theorem State.load_ready (s : State) (bytes : List Nat) : (s.load bytes).state.ready = s.ready := by
  unfold State.load
  split
  · show (if s.loaderOpen then s.scrambleMem else s).ready = s.ready
    split <;> rfl
  · exact loadFrom_ready bytes s 0

/-- Of the host's actions reset alone changes `ready` (70_reset_and_hazards R201). -/
theorem HostAction.apply_ready {a : HostAction} (h : a ≠ .reset) (s : State) :
    (a.apply s).ready = s.ready := by
  cases a with
  | reset => exact absurd rfl h
  | start => exact s.start_ready
  | loaderWrite addr data => exact s.loaderWrite_ready addr data
  | load bytes => exact s.load_ready bytes

/-- Settles O50: of the host's actions a start alone changes the run state, and not from FAULTED. -/
theorem faultedLeftOnlyByReset : Obligations.FaultedLeftOnlyByReset := by
  unfold Obligations.FaultedLeftOnlyByReset
  intro s hr hrun
  refine ⟨step_stopped hr (by simp [hrun]), fun a ha => ⟨?_, (a.apply_ready ha s).trans hr⟩⟩
  by_contra hne
  rw [← hrun] at hne
  obtain ⟨-, hstopped, -⟩ := HostAction.apply_run_changed hne
  simp [hrun] at hstopped

/-! ### The first fault of an instruction at the pc (R183)

`firstFault` and `runStep` are written by the same two parts: the first operand fetch past the end of
memory, then the register checks of the instruction read. -/

/-- R183 items 3 and 4: the first operand byte of an instruction of `len` bytes at the pc that lies past the end
of memory. -/
def operandFetchFault (s : State) (len : Nat) : Option FaultCause :=
  if 2 ≤ len ∧ 256 ≤ s.pc.toNat + 1 then some (.memOutOfRange (pcPlus s.pc 1))
  else if 3 ≤ len ∧ 256 ≤ s.pc.toNat + 2 then some (.memOutOfRange (pcPlus s.pc 2))
  else none

theorem operandFetchFault_one (s : State) : operandFetchFault s 1 = none := by
  simp [operandFetchFault]

theorem operandFetchFault_two_elim {β : Type} (s : State) (b : β) (f : FaultCause → β) :
    (operandFetchFault s 2).elim b f =
      if 256 ≤ s.pc.toNat + 1 then f (.memOutOfRange (pcPlus s.pc 1)) else b := by
  simp only [operandFetchFault, le_refl, true_and, Nat.reduceLeDiff, false_and, if_false]
  split <;> rfl

theorem operandFetchFault_three_elim {β : Type} (s : State) (b : β) (f : FaultCause → β) :
    (operandFetchFault s 3).elim b f =
      if 256 ≤ s.pc.toNat + 1 then f (.memOutOfRange (pcPlus s.pc 1))
      else if 256 ≤ s.pc.toNat + 2 then f (.memOutOfRange (pcPlus s.pc 2)) else b := by
  simp only [operandFetchFault, le_refl, true_and, Nat.reduceLeDiff]
  split_ifs <;> rfl

/-- The cause a failed check raises. -/
def causeOf {α : Type} : Except FaultCause α → Option FaultCause
  | .ok _ => none
  | .error c => some c

theorem causeOf_checkRegs_nil (rb1 rb2 : Byte) : causeOf (checkRegs rb1 rb2 []) = none := rfl

/-- R183 items 5 and 6: the register checks, one operand byte after the other. -/
theorem causeOf_checkRegs_cons (rb1 rb2 : Byte) (p : Nat) (ps : List Nat) :
    causeOf (checkRegs rb1 rb2 (p :: ps)) =
      if 8 ≤ (operandByte rb1 rb2 p).toNat then
        some (.illegalRegister (BitVec.ofNat 8 p) (operandByte rb1 rb2 p))
      else causeOf (checkRegs rb1 rb2 ps) := by
  split_ifs with h
  · rw [checkRegs_cons_invalid ((validRegByte_eq_false_iff _).2 h), causeOf]
  · rw [checkRegs_cons_valid ((validRegByte_iff _).2 (Nat.not_le.1 h))]

/-- The bytes that an instruction at the pc may take, read without the range check. -/
def rawBytes (s : State) : List Byte :=
  [s.mem.read s.pc.toNat, s.mem.read (s.pc.toNat + 1), s.mem.read (s.pc.toNat + 2)]

/-- An opcode with a control word and any two bytes after it begin with an instruction. -/
theorem exists_encode_prefix {op : Byte} {cw : ControlWord} (h : controlWord op = some cw) (b1 b2 : Byte) :
    ∃ i, encode i <+: [op, b1, b2] := by
  have hmem : op ∈ [opHalt, opLdi, opPrn, opMul, opPush, opPop] := by
    by_contra hop
    simp [controlWord_eq_none_iff.2 hop] at h
  simp only [List.mem_cons, List.not_mem_nil, or_false] at hmem
  rcases hmem with rfl | rfl | rfl | rfl | rfl | rfl
  · exact ⟨.halt, _, rfl⟩
  · exact ⟨.ldi b1 b2, _, rfl⟩
  · exact ⟨.prn b1, _, rfl⟩
  · exact ⟨.mul b1 b2, _, rfl⟩
  · exact ⟨.push b1, _, rfl⟩
  · exact ⟨.pop b1, _, rfl⟩

theorem controlRow_len (i : Instr) : (controlRow i).len = i.length := by
  cases i <;> rfl

/-- An instruction read from raw bytes: its opcode, and the operand bytes it has of the two after it. -/
theorem encode_prefix_rawBytes_iff {s : State} {i : Instr} :
    encode i <+: rawBytes s ↔ s.mem.read s.pc.toNat = i.opcode ∧
      (encode i).tail <+: [s.mem.read (s.pc.toNat + 1), s.mem.read (s.pc.toNat + 2)] := by
  rw [encode_eq_opcode_cons, rawBytes, List.cons_prefix_cons, eq_comm, List.tail_cons]

/-- The checks of an instruction, on the raw bytes it was read from. -/
theorem regChecks_eq_checkRegs {i : Instr} {b1 b2 : Byte} (h : (encode i).tail <+: [b1, b2]) :
    regChecks i = checkRegs b1 b2 (controlRow i).regs := by
  cases i <;> simp only [encode, List.tail_cons, List.cons_prefix_cons, List.nil_prefix, and_true] at h
  case halt => rfl
  case ldi r v =>
    obtain ⟨rfl, rfl⟩ := h
    rfl
  case mul a b =>
    obtain ⟨rfl, rfl⟩ := h
    rfl
  case prn r | push r | pop r =>
    subst h
    rfl

/-- The checks of a row find the first byte of 8 or more that the row lists. -/
theorem causeOf_checkRegs_controlRow (i : Instr) (b1 b2 : Byte) :
    causeOf (checkRegs b1 b2 (controlRow i).regs) =
      if 1 ∈ (controlRow i).regs ∧ 8 ≤ b1.toNat then some (.illegalRegister 1 b1)
      else if 2 ∈ (controlRow i).regs ∧ 8 ≤ b2.toNat then some (.illegalRegister 2 b2)
      else none := by
  cases i <;> simp [controlRow, causeOf_checkRegs_cons, causeOf_checkRegs_nil, operandByte]

theorem firstFault_of_encode_prefix {s : State} {i : Instr} (hpc : s.pc.toNat < 256)
    (h : encode i <+: rawBytes s) :
    firstFault s = (operandFetchFault s i.length).or (causeOf (regChecks i)) := by
  obtain ⟨hop, htail⟩ := encode_prefix_rawBytes_iff.1 h
  simp only [firstFault, Nat.not_le.2 hpc, if_false, hop, controlWord_opcode, controlRow_len,
    operandFetchFault, regChecks_eq_checkRegs htail,
    causeOf_checkRegs_controlRow]
  split_ifs <;> rfl

theorem runStep_oneOperand_elim {s : State} {op : Byte} (mk : Byte → Instr) (hpc : s.pc.toNat < memSize)
    (hop : s.mem.read s.pc.toNat = op)
    (hfetch : (s.setIr op).fetchInstr op = (s.fetch (pcPlus s.pc 1)).map mk) :
    runStep s = (operandFetchFault s 2).elim (exec (mk (s.mem.read (s.pc.toNat + 1))) (s.setIr op))
      fun c => .next ((s.setIr op).raise c) := by
  rw [runStep_oneOperand mk hpc hop hfetch, operandFetchFault_two_elim]

theorem runStep_twoOperands_elim {s : State} {op : Byte} (mk : Byte → Byte → Instr)
    (hpc : s.pc.toNat < memSize) (hop : s.mem.read s.pc.toNat = op)
    (hfetch : (s.setIr op).fetchInstr op =
      (s.fetch (pcPlus s.pc 1)).bind fun a => (s.fetch (pcPlus s.pc 2)).map (mk a)) :
    runStep s = (operandFetchFault s 3).elim
      (exec (mk (s.mem.read (s.pc.toNat + 1)) (s.mem.read (s.pc.toNat + 2))) (s.setIr op))
      fun c => .next ((s.setIr op).raise c) := by
  rw [runStep_twoOperands mk hpc hop hfetch, operandFetchFault_three_elim]

theorem runStep_of_encode_prefix {s : State} {i : Instr} (hpc : s.pc.toNat < 256)
    (h : encode i <+: rawBytes s) :
    runStep s = (operandFetchFault s i.length).elim (exec i (s.setIr i.opcode))
      fun c => .next ((s.setIr i.opcode).raise c) := by
  obtain ⟨hop, htail⟩ := encode_prefix_rawBytes_iff.1 h
  cases i <;> simp only [encode, List.tail_cons, List.cons_prefix_cons, List.nil_prefix, and_true] at htail
  case halt =>
    have hfetch : (s.setIr (s.mem.read s.pc.toNat)).fetchInstr (s.mem.read s.pc.toNat) = .ok .halt := by
      rw [hop]
      exact fetchInstr_opHalt _
    rw [runStep_of_fetchInstr_ok hpc hfetch, hop, Instr.length, operandFetchFault_one, Option.elim_none]
  case ldi r v =>
    obtain ⟨rfl, rfl⟩ := htail
    exact runStep_twoOperands_elim .ldi hpc hop (fetchInstr_opLdi _)
  case prn r =>
    subst htail
    exact runStep_oneOperand_elim .prn hpc hop (fetchInstr_opPrn _)
  case mul a b =>
    obtain ⟨rfl, rfl⟩ := htail
    exact runStep_twoOperands_elim .mul hpc hop (fetchInstr_opMul _)
  case push r =>
    subst htail
    exact runStep_oneOperand_elim .push hpc hop (fetchInstr_opPush _)
  case pop r =>
    subst htail
    exact runStep_oneOperand_elim .pop hpc hop (fetchInstr_opPop _)

/-! ### Fault priority (R183) -/

/-- The outcome `o` of a step from `s` answers a next state and raised exactly the fault given, or
none. -/
def AnswersRaising (s : State) (o : Host.Outcome State Fault Refusal) (c : Option FaultCause) : Prop :=
  ∃ t, o = .next t ∧ RaisedExactly s t c

theorem answersRaising_raise (s : State) (op : Byte) (c : FaultCause) :
    AnswersRaising s (.next ((s.setIr op).raise c)) (some c) :=
  ⟨_, rfl, rfl, rfl, rfl, rfl⟩

/-- An instruction raises exactly what its register checks find. -/
theorem answersRaising_exec {s : State} (hrun : s.run ≠ .faulted) (i : Instr) (op : Byte) :
    AnswersRaising s (exec i (s.setIr op)) (causeOf (regChecks i)) := by
  cases hw : i.wellFormed with
  | true =>
    rw [exec_wellFormed hw, regChecks_wellFormed hw]
    obtain ⟨hcode, hpc, hir, hinfo⟩ := execResult_sameFaultRecord i (s.setIr op)
    exact ⟨_, rfl, execResult_run_ne_faulted (s := s.setIr op) hrun i, hcode, hpc, hir, hinfo⟩
  | false =>
    obtain ⟨c, hchecks, hexec⟩ := regChecks_illFormed hw (s.setIr op)
    rw [hexec, hchecks]
    exact answersRaising_raise s op c

/-- The run loop's step raises exactly the first fault, item by item of R183. -/
theorem answersRaising_runStep {s : State} (hrun : s.run ≠ .faulted) :
    AnswersRaising s (runStep s) (firstFault s) := by
  by_cases hpc : s.pc.toNat < 256
  · cases hcw : controlWord (s.mem.read s.pc.toNat) with
    | none =>
      have hfirst : firstFault s = some (.unknownOpcode (s.mem.read s.pc.toNat)) := by
        simp [firstFault, hpc, hcw]
      rw [hfirst, runStep_of_controlWord_none hpc hcw]
      exact answersRaising_raise s _ _
    | some cw =>
      obtain ⟨i, hi⟩ : ∃ i, encode i <+: rawBytes s := exists_encode_prefix hcw _ _
      rw [firstFault_of_encode_prefix hpc hi, runStep_of_encode_prefix hpc hi]
      cases operandFetchFault s i.length with
      | none => exact answersRaising_exec hrun i i.opcode
      | some c => exact answersRaising_raise s i.opcode c
  · have hpc := Nat.not_lt.1 hpc
    have hfirst : firstFault s = some (.memOutOfRange s.pc) := if_pos hpc
    rw [hfirst, runStep_outOfRange hpc]
    exact ⟨_, rfl, rfl, rfl, rfl, rfl⟩

/-- Settles O22, by `answersRaising_runStep`; a step after the assertion of reset is the end of the reset
sequence. -/
theorem faultPriority : Obligations.FaultPriority := by
  unfold Obligations.FaultPriority
  constructor
  · intro s hr hrun
    rw [step_running hr hrun]
    exact answersRaising_runStep (by simp [hrun])
  · exact fun s => ⟨_, step_notReady s.assertReset_ready, rfl, rfl⟩

end Sys2Proof.Machine
end

section
/-! PROOFS. The statements of spec/70_reset_and_hazards.md: reset from any state, what a host action
changes and keeps, and the bound on every run. -/

namespace Sys2Proof.Machine

/-! ### The closed loader port (20_memory R61, 70_reset_and_hazards R201) -/

theorem State.loaderWrite_of_closed {s : State} (h : s.loaderOpen = false) (addr data : Byte) :
    s.loaderWrite addr data = s := by
  rw [State.loaderWrite, h]
  rfl

theorem loadFrom_of_closed {s : State} (h : s.loaderOpen = false) (bytes : List Nat) :
    ∀ addr : Nat, loadFrom s addr bytes = s := by
  induction bytes with
  | nil => intro addr; rfl
  | cons b bs ih =>
    intro addr
    rw [loadFrom, State.loaderWrite_of_closed h, ih]

theorem State.load_of_closed {s : State} (h : s.loaderOpen = false) (bytes : List Nat) :
    (s.load bytes).state = s := by
  by_cases hlen : memSize < bytes.length
  · rw [State.load, if_pos hlen, h]
    rfl
  · rw [State.load, if_neg hlen]
    exact loadFrom_of_closed h bytes 0

theorem State.run_ne_running_of_loaderOpen {s : State} (h : s.loaderOpen = true) : s.run ≠ .running := by
  intro hrun
  simp [State.loaderOpen, hrun] at h

/-! ### Reset (R200, R201) -/

/-- Settles O48: with `ready = 0` the step is the end of the reset sequence, no start is accepted and the
loader port is closed. -/
theorem resetFromAnyState : Obligations.ResetFromAnyState := by
  unfold Obligations.ResetFromAnyState
  intro s
  have hstart : ¬ (s.assertReset.ready = true ∧
      (s.assertReset.run = .idle ∨ s.assertReset.run = .halted)) := fun h => nomatch h.1
  have hclosed : s.assertReset.loaderOpen = false := rfl
  exact ⟨⟨s.draws, step_notReady s.assertReset_ready⟩, if_neg hstart,
    State.loaderWrite_of_closed hclosed⟩

/-! ### What a host action can do (R210) -/

theorem freeCells_wf (d : Nat) : ∀ n : Nat, n ≤ memSize → (freeCells d n).wf = true
  | 0, _ => rfl
  | n + 1, h => Memory.wf_write (freeCells_wf d n (Nat.le_of_succ_le h)) h _

/-- Everything a host action can do to the block: assert reset, start an IDLE or HALTED block, change
memory through the open loader port, or nothing. -/
inductive HostEffect (s : State) : State → Prop
  | assertsReset : HostEffect s s.assertReset
  | starts (hrun : s.run = .idle ∨ s.run = .halted) : HostEffect s (s.setRun .running)
  | changesMem (hrun : s.run ≠ .running) (m : Memory) (d : Nat) (hm : s.mem.wf = true → m.wf = true) :
      HostEffect s { s with mem := m, draws := d }
  | ignored : HostEffect s s

theorem State.start_hostEffect (s : State) : HostEffect s s.start := by
  rcases s.start_cases with hs | ⟨hrun, hs⟩
  · rw [hs]
    exact .ignored
  · rw [hs]
    exact .starts hrun

theorem State.loaderWrite_hostEffect (s : State) (addr data : Byte) :
    HostEffect s (s.loaderWrite addr data) := by
  cases hopen : s.loaderOpen with
  | true =>
    rw [State.loaderWrite_of_open hopen]
    exact .changesMem (State.run_ne_running_of_loaderOpen hopen) _ s.draws
      fun hm => Memory.wf_write hm (byte_lt_memSize addr) data
  | false =>
    rw [State.loaderWrite_of_closed hopen]
    exact .ignored

theorem State.load_hostEffect (s : State) (bytes : List Nat) : HostEffect s (s.load bytes).state := by
  cases hopen : s.loaderOpen with
  | true =>
    have hrun := State.run_ne_running_of_loaderOpen hopen
    rcases Nat.lt_or_ge memSize bytes.length with hlen | hlen
    · rw [State.load_of_overlength hopen hlen]
      exact .changesMem hrun _ _ fun _ => freeCells_wf s.draws memSize le_rfl
    · rw [State.load_of_fits hopen hlen]
      exact .changesMem hrun _ s.draws fun hm => storeBytes_wf _ _ 0 hm
  | false =>
    rw [State.load_of_closed hopen]
    exact .ignored

theorem HostAction.apply_hostEffect (a : HostAction) (s : State) : HostEffect s (a.apply s) := by
  cases a with
  | reset => exact .assertsReset
  | start => exact s.start_hostEffect
  | loaderWrite addr data => exact s.loaderWrite_hostEffect addr data
  | load bytes => exact s.load_hostEffect bytes

/-! ### The invariant and the frame of a host action (R210, R186) -/

/-- A start's write of the run state, from IDLE or HALTED. -/
theorem State.Inv.setRun_running {s : State} (h : s.Inv) (hrun : s.run = .idle ∨ s.run = .halted) :
    (s.setRun .running).Inv where
  memory := h.memory
  pcBound := h.pcBound
  portIdle := h.portIdle
  faultRecord := h.faultRecord.of_same (by rcases hrun with hrun | hrun <;> simp [hrun])
    RunState.noConfusion ⟨rfl, rfl, rfl, rfl⟩
  idle hr := nomatch hr
  halted hr := nomatch hr

theorem State.Inv.hostEffect {s t : State} (h : s.Inv) (hst : HostEffect s t) : t.Inv := by
  cases hst with
  | assertsReset => exact ⟨h.memory, h.pcBound, h.portIdle, h.faultRecord, h.idle, h.halted⟩
  | starts hrun => exact h.setRun_running hrun
  | changesMem hrun m d hm =>
    exact ⟨hm h.memory, h.pcBound, h.portIdle, h.faultRecord, h.idle, h.halted⟩
  | ignored => exact h

/-- Settles O45, by the effects a host action can have. -/
theorem hostActionKeepsInvariant : Obligations.HostActionKeepsInvariant := by
  unfold Obligations.HostActionKeepsInvariant
  exact fun s a h => h.hostEffect (a.apply_hostEffect s)

theorem HostEffect.frame {s t : State} (h : HostEffect s t) :
    t.regs = s.regs ∧ t.pc = s.pc ∧ t.ir = s.ir ∧ t.out = s.out ∧ t.cfg = s.cfg ∧ SameFaultRecord s t := by
  cases h <;> exact ⟨rfl, rfl, rfl, rfl, rfl, rfl, rfl, rfl, rfl⟩

theorem HostEffect.mem_of_running {s t : State} (h : HostEffect s t) (hs : s.run = .running) :
    t.mem = s.mem := by
  cases h with
  | assertsReset => rfl
  | starts hrun => rfl
  | changesMem hrun m d hm => exact absurd hs hrun
  | ignored => rfl

/-- Settles O51: the fields by the effects a host action can have, the run state by
`HostAction.apply_run_changed`. -/
theorem hostActionFrame : Obligations.HostActionFrame := by
  unfold Obligations.HostActionFrame
  intro s a
  have heffect := a.apply_hostEffect s
  obtain ⟨hregs, hpc, hir, hout, hcfg, hrecord⟩ := heffect.frame
  refine ⟨hregs, hpc, hir, hout, hcfg, hrecord, heffect.mem_of_running, fun ha => ?_⟩
  by_contra hne
  obtain ⟨hstart, -, -⟩ := HostAction.apply_run_changed hne
  exact ha hstart

/-! ### Every run ends (R212) -/

theorem instr_two_le_length {i : Instr} (h : i ≠ .halt) : 2 ≤ i.length := by
  cases i with
  | halt => exact absurd rfl h
  | ldi r v => exact Nat.le_succ 2
  | prn r => exact le_rfl
  | mul a b => exact Nat.le_succ 2
  | push r => exact le_rfl
  | pop r => exact le_rfl

theorem ReadyStep.ready_eq {s t : State} (h : ReadyStep s t) : t.ready = s.ready := by
  cases h with
  | idles hrun => rfl
  | opcodeFetchFaults hrun => rfl
  | laterCheckFaults hrun c hc => rfl
  | completes hrun hpc i hop => exact (execResult_sameFixed i _).ready

/-- The step of a running block ends the run, or moves the pc on by at least 2 from inside memory. -/
theorem ReadyStep.stops_or_advances {s t : State} (h : ReadyStep s t) (hs : s.run = .running) :
    t.Stopped ∨ (t.run = .running ∧ s.pc.toNat < memSize ∧ s.pc.toNat + 2 ≤ t.pc.toNat) := by
  cases h with
  | idles hrun => exact absurd hs hrun
  | opcodeFetchFaults hrun => exact .inl (.inr rfl)
  | laterCheckFaults hrun c hc => exact .inl (.inr rfl)
  | completes hrun hpc i hop =>
    by_cases hi : i = .halt
    · subst hi
      exact .inl (.inl rfl)
    · refine .inr ⟨(execResult_run_of_ne_halt hi _).trans hs, hpc, ?_⟩
      rw [execResult_pc_of_ne_halt hi, State.setIr_pc, pcPlus_toNat hpc (instr_length_le_three i)]
      exact Nat.add_le_add_left (instr_two_le_length hi) _

theorem runBound_pos (p : Nat) : 0 < runBound p := Nat.succ_pos _

/-- A pc that moves on by at least 2 from inside memory needs one step less. -/
theorem runBound_lt {p q : Nat} (hp : p < memSize) (hq : p + 2 ≤ q) : runBound q < runBound p := by
  simp only [runBound, memSize] at *
  omega

theorem run_succ_of_step {M : Host.Core} {s t : M.State} (h : M.step s = .next t) (k : Nat) :
    M.run (k + 1) s = M.run k t := by
  rw [Host.Core.run, h]

theorem run_of_ne_running {s : State} (hr : s.ready = true) (h : s.run ≠ .running) :
    ∀ k : Nat, Host.Core.run core k s = .next s
  | 0 => rfl
  | k + 1 => (run_succ_of_step (M := core) (step_stopped hr h) k).trans (run_of_ne_running hr h k)

theorem State.Stopped.ne_running {s : State} (h : s.Stopped) : s.run ≠ .running := by
  rcases h with h | h <;> simp [h]

/-- The induction on the steps: `runBound` falls with every step that does not end the run, and the
steps left over after the end change nothing. -/
theorem run_stops (k : Nat) : ∀ s : State, s.ready = true → s.run = .running → runBound s.pc.toNat ≤ k →
    ∃ t, Host.Core.run core k s = .next t ∧ t.Stopped := by
  induction k with
  | zero => exact fun s _ _ hk => absurd hk (Nat.not_le.2 (runBound_pos _))
  | succ k ih =>
    intro s hr hrun hk
    obtain ⟨t, hstep⟩ := step_answers_next s
    have hready := readyStep_of_step hr hstep
    have hrt := hready.ready_eq.trans hr
    rw [run_succ_of_step (M := core) hstep]
    rcases hready.stops_or_advances hrun with hstopped | ⟨hrunt, hpc, hadvance⟩
    · exact ⟨t, run_of_ne_running hrt hstopped.ne_running k, hstopped⟩
    · exact ih t hrt hrunt (Nat.le_of_lt_succ ((runBound_lt hpc hadvance).trans_le hk))

/-- Settles O46, by the induction of `run_stops` at the bound itself. -/
theorem everyRunEnds : Obligations.EveryRunEnds := by
  unfold Obligations.EveryRunEnds
  exact fun s hr hrun => run_stops _ s hr hrun le_rfl

end Sys2Proof.Machine
end
